-- ==== Sys2Proof/Word.lean ====
section
/-! DEFINITION. The word types of CHIP8-CORE (spec/00_scope.md R5, R8): every value is unsigned. -/

namespace Sys2Proof

/-- An 8-bit value: a V register, a timer, a memory cell, the immediate NN (R5, R20). -/
abbrev Byte := BitVec 8

/-- A 16-bit value: an instruction word, `pc`, `I`, a return address (R5, R24, R29). -/
abbrev Word := BitVec 16

/-- A 12-bit address field NNN (R82). -/
abbrev Addr12 := BitVec 12

/-- A register index 0 to 15: the 4-bit field X or Y (R20, R23, R82). -/
abbrev Reg := Fin 16

/-- Register VF, which doubles as the flag output (R21). -/
abbrev vf : Reg := 15

/-- `zext_16(NNN)` (R8, R82). -/
def zext16 (nnn : Addr12) : Word := BitVec.ofNat 16 nnn.toNat

end Sys2Proof
end

