-- ==== Sys2Proof/Config.lean ====
section
/-! DEFINITION. The sizes the source fixes (spec/00_scope.md R5) and the named parameters of CHIP8-CORE (R6).
The values this hardware takes for the parameters stand in Sys2Proof/Machine/Params.lean. -/

namespace Sys2Proof

/-- PROG_BASE, where the program image is loaded and where execution starts (R5, R24, R54). -/
abbrev progBase : Nat := 512

/-- PROG_MAX, the longest image that loads: 4096 − 512 bytes (R5, R252). -/
abbrev progMax : Nat := 3584

/-- FONT_SIZE: 16 glyphs of 5 bytes (R5). -/
abbrev fontSize : Nat := 80

/-- The named parameters of R6, fixed before the machine starts: no instruction writes one.
State holds them (log 8), so that a statement over every state is one over every parameter value. -/
structure Config where
  /-- SHIFT_IGNORES_Y: 8XY6 and 8XYE ignore the Y operand (R40). -/
  shiftIgnoresY : Bool
  /-- STACK_DEPTH, a natural ≥ 1 (R35). -/
  stackDepth : Nat
  /-- FONT_BASE, with FONT_BASE + 80 ≤ 512 (R41). -/
  fontBase : Nat
  /-- FONT_DATA, 80 bytes, glyph d at 5·d (R41). -/
  fontData : List Byte
  /-- SOUND_TIMER_DECAYS: a tick also decrements ST (R227). -/
  soundTimerDecays : Bool
  /-- TIMER_HZ: timing only, no rule depends on it (R6, R229; log 16). -/
  timerHz : Nat
  /-- INSTR_BATCH: timing only, no rule depends on it (R6, R229; log 16). -/
  instrBatch : Nat
deriving DecidableEq, Repr

end Sys2Proof
end

