-- ==== Sys2Proof/Syntax.lean ====
section
/-! DEFINITION. The instruction set: one constructor per row of spec/opcode_table.json (spec/30_encoding.md R83).
A word that matches no row is no instruction (R85): the decoder names it `unmatched`. -/

namespace Sys2Proof

/-- The 32 instructions of R83, in its order, with their operands as R82 assembles them. -/
inductive Instr where
  /-- 00E0, CLS (R100). -/
  | cls
  /-- 00EE, RET (R101). -/
  | ret
  /-- 1NNN, JP nnn (R102). -/
  | jp (nnn : Addr12)
  /-- 2NNN, CALL nnn (R103). -/
  | call (nnn : Addr12)
  /-- 3XNN, SE Vx, nn (R120). -/
  | seImm (x : Reg) (nn : Byte)
  /-- 4XNN, SNE Vx, nn (R121). -/
  | sneImm (x : Reg) (nn : Byte)
  /-- 5XY0, SE Vx, Vy (R122). -/
  | seReg (x y : Reg)
  /-- 9XY0, SNE Vx, Vy (R123). -/
  | sneReg (x y : Reg)
  /-- 6XNN, LD Vx, nn (R132). -/
  | ldImm (x : Reg) (nn : Byte)
  /-- 7XNN, ADD Vx, nn (R133). -/
  | addImm (x : Reg) (nn : Byte)
  /-- 8XY0, LD Vx, Vy (R134). -/
  | ldReg (x y : Reg)
  /-- 8XY1, OR Vx, Vy (R135). -/
  | orReg (x y : Reg)
  /-- 8XY2, AND Vx, Vy (R136). -/
  | andReg (x y : Reg)
  /-- 8XY3, XOR Vx, Vy (R137). -/
  | xorReg (x y : Reg)
  /-- 8XY4, ADD Vx, Vy (R138). -/
  | addReg (x y : Reg)
  /-- 8XY5, SUB Vx, Vy (R139). -/
  | subReg (x y : Reg)
  /-- 8XY6, SHR Vx, Vy (R140). -/
  | shr (x y : Reg)
  /-- 8XY7, SUBN Vx, Vy (R141). -/
  | subn (x y : Reg)
  /-- 8XYE, SHL Vx, Vy (R142). -/
  | shl (x y : Reg)
  /-- ANNN, LD I, nnn (R150). -/
  | ldI (nnn : Addr12)
  /-- DXYN, DRW Vx, Vy, n (R151); n is a row count, 0 to 15 in a word (R82). -/
  | drw (x y : Reg) (n : Nat)
  /-- EX9E, SKP Vx (R170). -/
  | skp (x : Reg)
  /-- EXA1, SKNP Vx (R171). -/
  | sknp (x : Reg)
  /-- FX07, LD Vx, DT (R180). -/
  | ldVDt (x : Reg)
  /-- FX15, LD DT, Vx (R181). -/
  | ldDtV (x : Reg)
  /-- FX18, LD ST, Vx (R182). -/
  | ldStV (x : Reg)
  /-- FX1E, ADD I, Vx (R183). -/
  | addI (x : Reg)
  /-- FX0A, LD Vx, K (R184). -/
  | ldVK (x : Reg)
  /-- FX29, LD F, Vx (R185). -/
  | ldF (x : Reg)
  /-- FX33, LD B, Vx (R186). -/
  | ldB (x : Reg)
  /-- FX55, LD [I], Vx (R187). -/
  | ldMemV (x : Reg)
  /-- FX65, LD Vx, [I] (R188). -/
  | ldVMem (x : Reg)
deriving DecidableEq, Repr

end Sys2Proof
end

