-- ==== Sys2Proof/WellFormed.lean ====
section
/-! DEFINITION. Well-formedness of instructions and of the parameters.
Register indices, immediates and addresses carry their ranges in their types (R23, R82); the row count of DXYN and the
parameters of R6 are plain numbers and lists, checked here. -/

namespace Sys2Proof

/-- Every operand is a value its field can encode: the row count N of DXYN is a 4-bit count (R82). -/
def Instr.wf : Instr → Bool
  | .drw _ _ n => decide (n ≤ 15)
  | .cls | .ret | .jp _ | .call _ | .seImm _ _ | .sneImm _ _ | .seReg _ _ | .sneReg _ _ | .ldImm _ _ | .addImm _ _
  | .ldReg _ _ | .orReg _ _ | .andReg _ _ | .xorReg _ _ | .addReg _ _ | .subReg _ _ | .shr _ _ | .subn _ _ | .shl _ _
  | .ldI _ | .skp _ | .sknp _ | .ldVDt _ | .ldDtV _ | .ldStV _ | .addI _ | .ldVK _ | .ldF _ | .ldB _ | .ldMemV _
  | .ldVMem _ => true

/-- The bounds R6 sets on the parameters: STACK_DEPTH ≥ 1, FONT_BASE + 80 ≤ 512, FONT_DATA of 80 bytes. -/
def Config.wf (c : Config) : Bool :=
  decide (1 ≤ c.stackDepth) && decide (c.fontBase + fontSize ≤ progBase) && decide (c.fontData.length = fontSize)

end Sys2Proof
end

