-- ==== Sys2Proof/Decode.lean ====
section
/-! DEFINITION. The decoder (spec/30_encoding.md R81, R84, R85), the encoder and the opcode table of R83.
The decoder is total on any word and on any bytes; what is no instruction it rejects by name. -/

namespace Sys2Proof

/-! ## Bytes and fields -/

/-- `hi ++ lo`: instructions are big-endian (R56). -/
def wordOfBytes (hi lo : Byte) : Word := BitVec.ofNat 16 (256 * hi.toNat + lo.toNat)

/-- Bits 15..8 of a word, the byte at the lower address (R56). -/
def hiByte (w : Word) : Byte := BitVec.ofNat 8 (w.toNat / 256)

/-- Bits 7..0 of a word, the byte at the higher address (R56). -/
def loByte (w : Word) : Byte := BitVec.ofNat 8 w.toNat

/-- `w[lo+len−1 : lo]`, the field of `len` bits whose lowest is bit `lo` (R7). -/
def field (w : Word) (lo len : Nat) : Nat := w.toNat / 2 ^ lo % 2 ^ len

theorem field_lt (w : Word) (lo len : Nat) : field w lo len < 2 ^ len :=
  Nat.mod_lt _ (Nat.two_pow_pos len)

/-- X = w[11:8], a register index (R81, R82). -/
def xField (w : Word) : Reg := ⟨field w 8 4, field_lt w 8 4⟩

/-- Y = w[7:4], a register index (R81, R82). -/
def yField (w : Word) : Reg := ⟨field w 4 4, field_lt w 4 4⟩

/-- NN = w[7:0], an 8-bit immediate (R81, R82). -/
def nnField (w : Word) : Byte := BitVec.ofNat 8 (field w 0 8)

/-- NNN = w[11:0], a 12-bit address (R81, R82). -/
def nnnField (w : Word) : Addr12 := BitVec.ofNat 12 (field w 0 12)

/-! ## The decode function of R84 -/

/-- What the decoder answers: an instruction, or a rejection by name. -/
inductive Decoded where
  /-- The word is this instruction (R83). -/
  | instr (i : Instr)
  /-- UNMATCHED(w): the word matches no row (R85); executing it is a logged no-op (R86). -/
  | unmatched (w : Word)
deriving DecidableEq, Repr

/-- What the decoder answers on bytes. -/
inductive DecodedBytes where
  /-- The first two bytes decode so; `rest` is what follows them. -/
  | word (d : Decoded) (rest : List Byte)
  /-- Rejected: fewer than the two bytes every instruction has (R80). -/
  | truncated
deriving DecidableEq, Repr

/-- Class 0 of R84. -/
def decodeClass0 (w : Word) : Decoded :=
  if w = 0x00E0#16 then .instr .cls
  else if w = 0x00EE#16 then .instr .ret
  else .unmatched w

/-- Class 8 of R84, by N. -/
def decodeClass8 (w : Word) : Decoded :=
  match field w 0 4 with
  | 0x0 => .instr (.ldReg (xField w) (yField w))
  | 0x1 => .instr (.orReg (xField w) (yField w))
  | 0x2 => .instr (.andReg (xField w) (yField w))
  | 0x3 => .instr (.xorReg (xField w) (yField w))
  | 0x4 => .instr (.addReg (xField w) (yField w))
  | 0x5 => .instr (.subReg (xField w) (yField w))
  | 0x6 => .instr (.shr (xField w) (yField w))
  | 0x7 => .instr (.subn (xField w) (yField w))
  | 0xE => .instr (.shl (xField w) (yField w))
  | _ => .unmatched w

/-- Class E of R84, by NN. -/
def decodeClassE (w : Word) : Decoded :=
  if field w 0 8 = 0x9E then .instr (.skp (xField w))
  else if field w 0 8 = 0xA1 then .instr (.sknp (xField w))
  else .unmatched w

/-- Class F of R84, by NN. -/
def decodeClassF (w : Word) : Decoded :=
  if field w 0 8 = 0x07 then .instr (.ldVDt (xField w))
  else if field w 0 8 = 0x0A then .instr (.ldVK (xField w))
  else if field w 0 8 = 0x15 then .instr (.ldDtV (xField w))
  else if field w 0 8 = 0x18 then .instr (.ldStV (xField w))
  else if field w 0 8 = 0x1E then .instr (.addI (xField w))
  else if field w 0 8 = 0x29 then .instr (.ldF (xField w))
  else if field w 0 8 = 0x33 then .instr (.ldB (xField w))
  else if field w 0 8 = 0x55 then .instr (.ldMemV (xField w))
  else if field w 0 8 = 0x65 then .instr (.ldVMem (xField w))
  else .unmatched w

/-- `decode(w)` of R84, total on every 16-bit word. -/
def decode (w : Word) : Decoded :=
  match field w 12 4 with
  | 0x0 => decodeClass0 w
  | 0x1 => .instr (.jp (nnnField w))
  | 0x2 => .instr (.call (nnnField w))
  | 0x3 => .instr (.seImm (xField w) (nnField w))
  | 0x4 => .instr (.sneImm (xField w) (nnField w))
  | 0x5 => if field w 0 4 = 0 then .instr (.seReg (xField w) (yField w)) else .unmatched w
  | 0x6 => .instr (.ldImm (xField w) (nnField w))
  | 0x7 => .instr (.addImm (xField w) (nnField w))
  | 0x8 => decodeClass8 w
  | 0x9 => if field w 0 4 = 0 then .instr (.sneReg (xField w) (yField w)) else .unmatched w
  | 0xA => .instr (.ldI (nnnField w))
  | 0xD => .instr (.drw (xField w) (yField w) (field w 0 4))
  | 0xE => decodeClassE w
  | 0xF => decodeClassF w
  | _ => .unmatched w

/-- The decoder on bytes as memory holds them: it always consumes two (R80, R56). -/
def decodeBytes : List Byte → DecodedBytes
  | hi :: lo :: rest => .word (decode (wordOfBytes hi lo)) rest
  | _ => .truncated

/-! ## The encoder, from the encodings of R100 to R188 -/

/-- A word of format FXI: class, X, NN (R81). -/
def encodeXNN (op : Nat) (x : Reg) (nn : Byte) : Word := BitVec.ofNat 16 (4096 * op + 256 * x.val + nn.toNat)

/-- A word of format FA: class, NNN (R81). -/
def encodeNNN (op : Nat) (nnn : Addr12) : Word := BitVec.ofNat 16 (4096 * op + nnn.toNat)

/-- A word of format FXY or FXYN: class, X, Y, last nibble (R81). -/
def encodeXYN (op : Nat) (x y : Reg) (n : Nat) : Word :=
  BitVec.ofNat 16 (4096 * op + 256 * x.val + 16 * y.val + n)

/-- A word of format FXF: class, X, function byte (R81). -/
def encodeXF (op : Nat) (x : Reg) (fn : Nat) : Word := BitVec.ofNat 16 (4096 * op + 256 * x.val + fn)

/-- The word of an instruction, each from the "Encoding" line of its rule. -/
def encode : Instr → Word
  | .cls => 0x00E0#16
  | .ret => 0x00EE#16
  | .jp nnn => encodeNNN 0x1 nnn
  | .call nnn => encodeNNN 0x2 nnn
  | .seImm x nn => encodeXNN 0x3 x nn
  | .sneImm x nn => encodeXNN 0x4 x nn
  | .seReg x y => encodeXYN 0x5 x y 0x0
  | .sneReg x y => encodeXYN 0x9 x y 0x0
  | .ldImm x nn => encodeXNN 0x6 x nn
  | .addImm x nn => encodeXNN 0x7 x nn
  | .ldReg x y => encodeXYN 0x8 x y 0x0
  | .orReg x y => encodeXYN 0x8 x y 0x1
  | .andReg x y => encodeXYN 0x8 x y 0x2
  | .xorReg x y => encodeXYN 0x8 x y 0x3
  | .addReg x y => encodeXYN 0x8 x y 0x4
  | .subReg x y => encodeXYN 0x8 x y 0x5
  | .shr x y => encodeXYN 0x8 x y 0x6
  | .subn x y => encodeXYN 0x8 x y 0x7
  | .shl x y => encodeXYN 0x8 x y 0xE
  | .ldI nnn => encodeNNN 0xA nnn
  | .drw x y n => encodeXYN 0xD x y n
  | .skp x => encodeXF 0xE x 0x9E
  | .sknp x => encodeXF 0xE x 0xA1
  | .ldVDt x => encodeXF 0xF x 0x07
  | .ldDtV x => encodeXF 0xF x 0x15
  | .ldStV x => encodeXF 0xF x 0x18
  | .addI x => encodeXF 0xF x 0x1E
  | .ldVK x => encodeXF 0xF x 0x0A
  | .ldF x => encodeXF 0xF x 0x29
  | .ldB x => encodeXF 0xF x 0x33
  | .ldMemV x => encodeXF 0xF x 0x55
  | .ldVMem x => encodeXF 0xF x 0x65

/-! ## The opcode table of R83 -/

/-- The row of R83 an instruction belongs to, by its number in that table. -/
def Instr.row : Instr → Nat
  | .cls => 1
  | .ret => 2
  | .jp _ => 3
  | .call _ => 4
  | .seImm _ _ => 5
  | .sneImm _ _ => 6
  | .seReg _ _ => 7
  | .sneReg _ _ => 8
  | .ldImm _ _ => 9
  | .addImm _ _ => 10
  | .ldReg _ _ => 11
  | .orReg _ _ => 12
  | .andReg _ _ => 13
  | .xorReg _ _ => 14
  | .addReg _ _ => 15
  | .subReg _ _ => 16
  | .shr _ _ => 17
  | .subn _ _ => 18
  | .shl _ _ => 19
  | .ldI _ => 20
  | .drw _ _ _ => 21
  | .skp _ => 22
  | .sknp _ => 23
  | .ldVDt _ => 24
  | .ldDtV _ => 25
  | .ldStV _ => 26
  | .addI _ => 27
  | .ldVK _ => 28
  | .ldF _ => 29
  | .ldB _ => 30
  | .ldMemV _ => 31
  | .ldVMem _ => 32

/-- A row of R83: its number, mask and match. `mask` and `value` are the table's "mask" and "match". -/
structure OpcodeRow where
  number : Nat
  mask : Word
  value : Word
deriving DecidableEq, Repr

/-- A word is the instruction of a row when `(w AND mask) = match` (R83). -/
abbrev OpcodeRow.covers (r : OpcodeRow) (w : Word) : Prop := w &&& r.mask = r.value

/-- The 32 rows of R83. -/
def opcodeTable : List OpcodeRow :=
  [ ⟨1, 0xFFFF#16, 0x00E0#16⟩, ⟨2, 0xFFFF#16, 0x00EE#16⟩, ⟨3, 0xF000#16, 0x1000#16⟩, ⟨4, 0xF000#16, 0x2000#16⟩,
    ⟨5, 0xF000#16, 0x3000#16⟩, ⟨6, 0xF000#16, 0x4000#16⟩, ⟨7, 0xF00F#16, 0x5000#16⟩, ⟨8, 0xF00F#16, 0x9000#16⟩,
    ⟨9, 0xF000#16, 0x6000#16⟩, ⟨10, 0xF000#16, 0x7000#16⟩ ] ++
  [ ⟨11, 0xF00F#16, 0x8000#16⟩, ⟨12, 0xF00F#16, 0x8001#16⟩, ⟨13, 0xF00F#16, 0x8002#16⟩, ⟨14, 0xF00F#16, 0x8003#16⟩,
    ⟨15, 0xF00F#16, 0x8004#16⟩, ⟨16, 0xF00F#16, 0x8005#16⟩, ⟨17, 0xF00F#16, 0x8006#16⟩, ⟨18, 0xF00F#16, 0x8007#16⟩,
    ⟨19, 0xF00F#16, 0x800E#16⟩, ⟨20, 0xF000#16, 0xA000#16⟩, ⟨21, 0xF000#16, 0xD000#16⟩ ] ++
  [ ⟨22, 0xF0FF#16, 0xE09E#16⟩, ⟨23, 0xF0FF#16, 0xE0A1#16⟩, ⟨24, 0xF0FF#16, 0xF007#16⟩, ⟨25, 0xF0FF#16, 0xF015#16⟩,
    ⟨26, 0xF0FF#16, 0xF018#16⟩, ⟨27, 0xF0FF#16, 0xF01E#16⟩, ⟨28, 0xF0FF#16, 0xF00A#16⟩, ⟨29, 0xF0FF#16, 0xF029#16⟩,
    ⟨30, 0xF0FF#16, 0xF033#16⟩, ⟨31, 0xF0FF#16, 0xF055#16⟩, ⟨32, 0xF0FF#16, 0xF065#16⟩ ]

/-! ## The host's view of the decoder -/

/-- The word of a table row's bits: every instruction is 16 bits (R80), so the word is the low 16 of them, and bits from
`nbits` up are 0. -/
def tableWord (nbits w : Nat) : Word := BitVec.ofNat 16 (w % 2 ^ nbits)

/-- The instruction the decoder reads from the bytes of that word laid out as memory holds them (R56). -/
def decodeTableWord (nbits w : Nat) : Option Instr :=
  match decodeBytes [hiByte (tableWord nbits w), loByte (tableWord nbits w)] with
  | .word (.instr i) _ => some i
  | .word (.unmatched _) _ => none
  | .truncated => none

end Sys2Proof
end

