-- ==== Sys2Proof/Machine/State.lean ====
section
/-! DEFINITION. The state of CHIP8-CORE (spec/10_state.md R44), the reasons a run of the model stops, and the state after reset. -/

namespace Sys2Proof.Machine

/-- The fatal runtime errors of spec/60_exceptions.md R211. -/
inductive FatalReason where
  /-- Fetch at a > 4094 (R91). -/
  | pcOutOfRange
  /-- 00EE with SP = 0 (R101). -/
  | stackUnderflow
  /-- 2NNN with SP = STACK_DEPTH (R103). -/
  | stackOverflow
  /-- A data read address above 4095 (R52), raised by DXYN and FX65. -/
  | memReadOutOfRange
  /-- A write block ending above 4095 (R52), raised by FX33 and FX55. -/
  | memWriteOutOfRange
  /-- A register index outside 0..15: raised by none, unreachable (R23, log 12). -/
  | registerIndexOutOfRange
deriving DecidableEq, Repr

/-- The record of a halted core (R42): `addr` for memory faults only, `depth` for STACK_OVERFLOW only. -/
structure FaultRecord where
  reason : FatalReason
  pcFault : Word
  addr : Option Nat
  depth : Option Nat
deriving DecidableEq, Repr

/-- The halt status (R42). -/
inductive Status where
  | running
  | halted (r : FaultRecord)
deriving DecidableEq, Repr

/-- What the core reports to the host log (R237). -/
inductive LogEvent where
  /-- `Log(UNMATCHED(w, a))`: an unmatched word and its address (R86). -/
  | unmatched (w a : Word)
  /-- A fatal error (R212). -/
  | fatal (r : FaultRecord)
deriving DecidableEq, Repr

/-- The keypad state: for each key id 0..15, is it held down (R39)? -/
abbrev KeySet := Vector Bool 16

/-- One atomic move of an agent (R225, R228): DEDUCED, log 3. -/
inductive Move where
  /-- The main loop runs one cycle (R90). -/
  | mainLoop
  /-- The timer ticker ticks (R226). -/
  | tick
  /-- The host changes the key state to `k` (R39, R233). -/
  | keys (k : KeySet)
  /-- The host ends the process (R236). -/
  | quit
deriving DecidableEq, Repr

/-- FB: row y, then column x; true is lit (R38). -/
abbrev Framebuffer := Vector (Vector Bool 64) 32

/-- Memory: the cells that differ from the reset contents, in rising order of address (log 17). -/
abbrev Memory := List Host.Cell

/-- Everything the spec gives the machine (R44), and the model's own `schedule` and `log`. -/
structure State where
  /-- V0 to VF (R20). -/
  v : Vector Byte 16
  /-- The program counter (R24). -/
  pc : Word
  /-- The index register I (R29). -/
  i : Word
  /-- The delay timer (R32). -/
  dt : Byte
  /-- The sound timer (R33). -/
  st : Byte
  /-- The call stack, `stack[0]` the oldest entry; SP is its length (R35). -/
  stack : List Word
  /-- The framebuffer (R38). -/
  fb : Framebuffer
  /-- The 4096-byte memory (R50). -/
  mem : Memory
  /-- The pressed keys, host-owned (R39). -/
  keys : KeySet
  /-- The halt status (R42). -/
  status : Status
  /-- The parameters (R6, R40). -/
  cfg : Config
  /-- The moves of the agents still to come, first next; the empty list stands for rounds of one cycle and one tick
  (DESIGN CHOICE, log 3). -/
  schedule : List Move
  /-- What has been reported to the host log, oldest first (DESIGN CHOICE, log 7). -/
  log : List LogEvent
deriving DecidableEq, Repr

/-- The reasons a step has no next state. -/
inductive Fault where
  /-- Raised by `step` when the main loop's turn comes on a core that is halted: "the main loop takes no further cycle, for
  ever" (R212, R213). Safe: the hardware does not go on either. -/
  | coreHalted (r : FaultRecord)
  /-- Raised by `step` on the host's quit: the process ends between two cycles (R236). Safe: the hardware does not go on. -/
  | hostQuit
deriving DecidableEq, Repr

/-- The reasons an instruction has no meaning in the model. -/
inductive Refusal where
  /-- An arm of `exec` with no meaning yet. No arm raises it: every instruction of R83 has its meaning. Safe. -/
  | notModelled (mnemonic : String)
deriving DecidableEq, Repr

/-- The state of R44 for a machine with the parameters `cfg`, no image loaded: memory lists nothing, so it reads as the
font table and zeros. No key is held and nothing is scheduled (DESIGN CHOICE, log 2 and log 3). -/
def State.initial (cfg : Config) : State where
  v := Vector.replicate 16 0
  pc := BitVec.ofNat 16 progBase
  i := 0
  dt := 0
  st := 0
  stack := []
  fb := Vector.replicate 32 (Vector.replicate 64 false)
  mem := []
  keys := Vector.replicate 16 false
  status := .running
  cfg := cfg
  schedule := []
  log := []

/-- The machine right after reset (R44, R250), before an image is loaded (log 1). -/
def State.reset : State := State.initial hardwareConfig

end Sys2Proof.Machine
end

