-- ==== Sys2Proof/Machine/Ops.lean ====
section
/-! DEFINITION. The named operations over the state: registers, memory, framebuffer, keypad, call stack, raising a fatal
error, the timer tick. Every meaning goes through these. -/

namespace Sys2Proof.Machine

/-! ## Fields of the state -/

def State.setV (s : State) (v : Vector Byte 16) : State := { s with v := v }
def State.setPc (s : State) (pc : Word) : State := { s with pc := pc }
def State.setI (s : State) (i : Word) : State := { s with i := i }
def State.setDt (s : State) (dt : Byte) : State := { s with dt := dt }
def State.setSt (s : State) (st : Byte) : State := { s with st := st }
def State.setStack (s : State) (stack : List Word) : State := { s with stack := stack }
def State.setFb (s : State) (fb : Framebuffer) : State := { s with fb := fb }
def State.setMem (s : State) (mem : Memory) : State := { s with mem := mem }
def State.setKeys (s : State) (keys : KeySet) : State := { s with keys := keys }
def State.setStatus (s : State) (status : Status) : State := { s with status := status }
def State.setSchedule (s : State) (schedule : List Move) : State := { s with schedule := schedule }
/-- `Log(event)`: reports an event and changes no state of the core (R9, R237). -/
def State.report (s : State) (e : LogEvent) : State := { s with log := s.log ++ [e] }

/-! ## General registers (R20: no aliases, no banks, no hardwired register) -/

/-- `V[r]` (R9). -/
def State.reg (s : State) (r : Reg) : Byte := s.v[r.val]

/-- `V[r] <- b` (R9). -/
def State.setReg (s : State) (r : Reg) (b : Byte) : State := s.setV (s.v.set r.val b)

/-- `V[k + j] <- bytes[j]` for every j (R188); an index above 15 names no register. -/
def setRegsFrom (k : Nat) : List Byte → Vector Byte 16 → Vector Byte 16
  | [], v => v
  | b :: bs, v => setRegsFrom (k + 1) bs (if h : k < 16 then v.set k b h else v)

/-- `[V[0], ..., V[x]]` (R187). -/
def State.regsUpTo (s : State) (x : Reg) : List Byte := s.v.toList.take (x.val + 1)

/-! ## Raising a fatal error (R94, R212)

There is no return from one (R213): no operation here takes a halted core back to running; only Boot starts a machine again
(Machine/Boot.lean). -/

/-- The code of a fatal reason (R211). -/
def FatalReason.code : FatalReason → Nat
  | .pcOutOfRange => 1
  | .stackUnderflow => 2
  | .stackOverflow => 3
  | .memReadOutOfRange => 4
  | .memWriteOutOfRange => 5
  | .registerIndexOutOfRange => 6

/-- `raise Fatal(reason, info)` at address `a`, on the state BEFORE the faulting instruction's writes: they are discarded,
`pc <- a`, `status <- halted{…}` (R212), and the error is reported (R237). -/
def raiseFatal (a : Word) (reason : FatalReason) (addr depth : Option Nat) (s : State) : State :=
  let r : FaultRecord := { reason := reason, pcFault := a, addr := addr, depth := depth }
  ((s.setPc a).setStatus (.halted r)).report (.fatal r)

/-- `a`, the address the current instruction was fetched from: `pc` holds `a + 2` while it executes (R9, R92; DEDUCED, log 10). -/
def State.instrAddr (s : State) : Word := s.pc - 2

/-- A fatal error raised by the executing instruction: `pc_fault` is its own address (R211). -/
def State.fatal (s : State) (reason : FatalReason) (addr depth : Option Nat) : State :=
  raiseFatal s.instrAddr reason addr depth s

/-! ## Memory (R50 to R52) -/

/-- What an unlisted address reads as: the reset contents, FONT_DATA in the font area and 0 elsewhere (R44, R54; log 17). -/
def Memory.unlisted (cfg : Config) (a : Nat) : Byte :=
  if cfg.fontBase ≤ a ∧ a < cfg.fontBase + fontSize then cfg.fontData[a - cfg.fontBase]?.getD 0 else 0

/-- The listed byte of an address, if it is listed. -/
def Memory.lookup (a : Nat) : List Host.Cell → Option Byte
  | [] => none
  | (k, b) :: rest => if a = k then some b else Memory.lookup a rest

/-- One byte of memory. -/
def Memory.read (cfg : Config) (m : Memory) (a : Nat) : Byte := (Memory.lookup a m).getD (Memory.unlisted cfg a)

/-- The cell `(a, b)` put before the first cell of a higher address. -/
def Memory.insert (a : Nat) (b : Byte) : List Host.Cell → List Host.Cell
  | [] => [(a, b)]
  | (k, c) :: rest => if a < k then (a, b) :: (k, c) :: rest else (k, c) :: Memory.insert a b rest

/-- One byte written: a byte equal to what its address reads as unlisted is not listed (log 17). -/
def Memory.write (cfg : Config) (m : Memory) (a : Nat) (b : Byte) : Memory :=
  if b = Memory.unlisted cfg a then m.filter (fun c => c.1 != a)
  else Memory.insert a b (m.filter (fun c => c.1 != a))

/-- `mem[a + k] <- bytes[k]` for every k, in rising order (R52). -/
def Memory.writeBlock (cfg : Config) (a : Nat) : List Byte → Memory → Memory
  | [], m => m
  | b :: bs, m => Memory.writeBlock cfg (a + 1) bs (Memory.write cfg m a b)

/-- The canonical form: addresses strictly rising, all in 0..4095, no entry equal to what its address reads as unlisted. -/
abbrev Memory.wf (cfg : Config) (m : Memory) : Prop :=
  m.Pairwise (fun c d => c.1 < d.1) ∧ ∀ c ∈ m, c.1 ≤ 4095 ∧ c.2 ≠ Memory.unlisted cfg c.1

/-- `read(address)` of the memory controller (R51). -/
def State.readByte (s : State) (a : Nat) : Byte := Memory.read s.cfg s.mem a

/-- The check of R52 on an access of `n` bytes at `addr`: the first address above 4095, if the access reaches one.
Addresses are unbounded naturals and never wrap; an access of no byte checks nothing (R152). -/
def firstOutOfRange (addr n : Nat) : Option Nat :=
  if 0 < n ∧ addr + n - 1 > 4095 then some (max addr 4096) else none

/-- `MemRead(addr, n)` (R52): the bytes, or the first address out of range. -/
def State.memRead (s : State) (addr n : Nat) : Except Nat (List Byte) :=
  match firstOutOfRange addr n with
  | some bad => .error bad
  | none => .ok ((List.range n).map fun k => s.readByte (addr + k))

/-- `MemWrite(addr, n, bytes)` with n the length of `bytes` (R52): the whole range is checked before any byte moves. -/
def State.memWrite (s : State) (addr : Nat) (bytes : List Byte) : Except Nat State :=
  match firstOutOfRange addr bytes.length with
  | some bad => .error bad
  | none => .ok (s.setMem (Memory.writeBlock s.cfg addr bytes s.mem))

/-! ## Fetch (R90 to R92) -/

/-- The word fetched at `pc`, big-endian, or none when `pc` is above 4094 (R56, R90, R91). -/
def State.fetchWord (s : State) : Option Word :=
  if s.pc.toNat > 4094 then none
  else some (wordOfBytes (s.readByte s.pc.toNat) (s.readByte (s.pc.toNat + 1)))

/-- `pc <- a + 2`, after the fetch and before dispatch (R92). -/
def State.advance (s : State) : State := s.setPc (s.pc + 2)

/-- A skip adds 2 to the pre-advanced `pc` (R92, R124). -/
def State.skipIf (s : State) (c : Bool) : State := if c then s.setPc (s.pc + 2) else s

/-- An unmatched word: nothing changes, `pc` stays at `a + 2`, and it is logged with its address (R86). -/
def execUnmatched (w : Word) (s : State) : State := s.report (.unmatched w s.instrAddr)

/-! ## The call stack (R35, R36) -/

/-- SP, the depth of the stack (R35). -/
def State.sp (s : State) : Nat := s.stack.length

/-- `Push(v)`, or none when SP = STACK_DEPTH (R36). A deeper stack, which no run reaches, also overflows. -/
def State.push (s : State) (v : Word) : Option State :=
  if s.sp ≥ s.cfg.stackDepth then none else some (s.setStack (s.stack ++ [v]))

/-- `Pop()`, or none when SP = 0 (R36). -/
def State.pop (s : State) : Option (Word × State) :=
  match s.stack.getLast? with
  | none => none
  | some v => some (v, s.setStack s.stack.dropLast)

/-! ## The framebuffer (R38, R231, R232) -/

/-- `ClearFB()`: every pixel unlit (R9, R231). -/
def Framebuffer.clear : Framebuffer := Vector.replicate 32 (Vector.replicate 64 false)

/-- `get_pixel(x, y)` (R232). Off the grid, where DXYN never asks (R232), it answers false (log 20). -/
def Framebuffer.pixel (fb : Framebuffer) (x y : Nat) : Bool :=
  if h : x < 64 ∧ y < 32 then (fb[y]'h.2)[x]'h.1 else false

/-- `toggle_pixel(x, y)` (R232). Off the grid, where DXYN never asks (R232), it changes nothing (log 20). -/
def Framebuffer.toggle (fb : Framebuffer) (x y : Nat) : Framebuffer :=
  if h : x < 64 ∧ y < 32 then fb.set y ((fb[y]'h.2).set x (!(fb[y]'h.2)[x]'h.1) h.1) h.2 else fb

/-- What DXYN changes: the framebuffer, and whether a lit pixel was turned off. -/
structure Drawing where
  fb : Framebuffer
  collision : Bool
deriving DecidableEq, Repr

/-- One sprite bit at (x, y): a 1 queries the pixel and then toggles it, a 0 does neither (R154). -/
def drawPixel (x y : Nat) (bit : Bool) (d : Drawing) : Drawing :=
  if bit then { fb := Framebuffer.toggle d.fb x y, collision := d.collision || Framebuffer.pixel d.fb x y } else d

/-- One sprite byte at row `y` from column `x0`, bit 7 leftmost (R155); columns above 63 are clipped (R153). -/
def drawRow (x0 y : Nat) (b : Byte) (d : Drawing) : Drawing :=
  (List.range 8).foldl (fun d c => if x0 + c > 63 then d else drawPixel (x0 + c) y (b.getLsbD (7 - c)) d) d

/-- The sprite bytes, one a row, top to bottom (R155). -/
def drawRows (x0 : Nat) : Nat → List Byte → Drawing → Drawing
  | _, [], d => d
  | y, b :: bs, d => drawRows x0 (y + 1) bs (drawRow x0 y b d)

/-! ## The keypad (R39, R233) -/

/-- Is key `k` in the pressed set? A number above 15 names no key (R172). -/
def KeySet.held (ks : KeySet) (k : Nat) : Bool := if h : k < 16 then ks[k]'h else false

/-- `min(K)`, or none when no key is down (R184). -/
def KeySet.lowest (ks : KeySet) : Option Nat := (List.range 16).find? fun k => KeySet.held ks k

/-! ## The timer ticker (R226, R227) -/

/-- A counter decremented and clamped at zero (R226). -/
def decrementClamped (b : Byte) : Byte := if b.toNat > 0 then b - 1 else b

/-- `Tick()`: DT, and ST when SOUND_TIMER_DECAYS (R226, R227). -/
def tick (s : State) : State :=
  let s' := s.setDt (decrementClamped s.dt)
  if s.cfg.soundTimerDecays then s'.setSt (decrementClamped s.st) else s'

/-! ## Placing a word where the next step fetches -/

/-- `s` with the word `w` at the address the main loop fetches next, and the main loop next to move. A state the fetch
would not run from is changed no further than that takes: a halted core runs again, a `pc` above 4094 is set to 512
(log 18). -/
def State.placeWord (s : State) (w : Word) : State :=
  let pc : Word := if s.pc.toNat > 4094 then BitVec.ofNat 16 progBase else s.pc
  let mem := Memory.writeBlock s.cfg pc.toNat [hiByte w, loByte w] s.mem
  { s with pc := pc, mem := mem, status := .running, schedule := [] }

end Sys2Proof.Machine
end

