-- ==== Sys2Proof/Machine/Flags.lean ====
section
/-! DEFINITION. Every flag computation of the spec: the values left in VF (spec/10_state.md R21, spec/43_alu.md R130, R131). -/

namespace Sys2Proof.Machine

/-- A flag as the value of VF: 1 or 0. -/
def flagByte (b : Bool) : Byte := if b then 1 else 0

/-- The carry of 8XY4, on the unreduced sum: x + y > 255 (R138). -/
def carryOut (x y : Byte) : Bool := decide (x.toNat + y.toNat > 255)

/-- The not-borrow of a − b: a ≥ b (R139, R141). -/
def notBorrow (a b : Byte) : Bool := decide (a.toNat ≥ b.toNat)

/-- The bit shifted out of a right shift, bit 0 (R140). -/
def shiftedOutRight (b : Byte) : Bool := b.getLsbD 0

/-- The bit shifted out of a left shift, bit 7 (R142). -/
def shiftedOutLeft (b : Byte) : Bool := b.getLsbD 7

/-- FX1E's flag: the unbounded sum exceeds 0xFFF (R183). -/
def indexOverflow (i : Word) (b : Byte) : Bool := decide (i.toNat + b.toNat > 0xFFF)

/-- V[X] is written, then VF: the flag is the value left in VF when X = 0xF (R131). -/
def State.setResultAndFlag (s : State) (x : Reg) (result : Byte) (flag : Bool) : State :=
  (s.setReg x result).setReg vf (flagByte flag)

end Sys2Proof.Machine
end

