-- ==== Sys2Proof/Machine/Operands.lean ====
section
/-! DEFINITION. The operand forms (spec/30_encoding.md R82) beyond a plain V[X], V[Y], NN or NNN. -/

namespace Sys2Proof.Machine

/-- The value 8XY6 and 8XYE shift: V[X] when SHIFT_IGNORES_Y, else V[Y] (R140, R142). -/
def State.shiftOperand (s : State) (x y : Reg) : Byte := if s.cfg.shiftIgnoresY then s.reg x else s.reg y

/-- The start column of a sprite, V[X] mod 64 (R151, R153). -/
def State.startColumn (s : State) (x : Reg) : Nat := (s.reg x).toNat % 64

/-- The start row of a sprite, V[Y] mod 32 (R151, R153). -/
def State.startRow (s : State) (y : Reg) : Nat := (s.reg y).toNat % 32

/-- The rows DXYN reads and draws: min(N, 32 − y0), those below the bottom edge being clipped (R151, R152). -/
def State.drawnRows (s : State) (y : Reg) (n : Nat) : Nat := min n (32 - s.startRow y)

/-- The address of the glyph of the low hex digit of a byte: FONT_BASE + 5 · V[X][3:0] (R185). -/
def glyphAddr (cfg : Config) (b : Byte) : Word := BitVec.ofNat 16 (cfg.fontBase + 5 * (b.toNat % 16))

/-- The decimal digits of a byte: hundreds, tens, ones (R186). -/
def bcdDigits (b : Byte) : List Byte :=
  [BitVec.ofNat 8 (b.toNat / 100), BitVec.ofNat 8 (b.toNat / 10 % 10), BitVec.ofNat 8 (b.toNat % 10)]

end Sys2Proof.Machine
end

