-- ==== Sys2Proof/Machine/Alu.lean ====
section
/-! DEFINITION. Class 6, 7 and 8 instructions, register loads and the ALU (spec/43_alu.md). -/

namespace Sys2Proof.Machine

open Host

/-- LD Vx, nn, 6XNN (R132). -/
def execLdImm (x : Reg) (nn : Byte) (s : State) : Outcome State Fault Refusal := .next (s.setReg x nn)

/-- ADD Vx, nn, 7XNN: mod 256, no flag (R133). -/
def execAddImm (x : Reg) (nn : Byte) (s : State) : Outcome State Fault Refusal := .next (s.setReg x (s.reg x + nn))

/-- LD Vx, Vy, 8XY0 (R134). -/
def execLdReg (x y : Reg) (s : State) : Outcome State Fault Refusal := .next (s.setReg x (s.reg y))

/-- OR Vx, Vy, 8XY1: VF is not reset (R135). -/
def execOrReg (x y : Reg) (s : State) : Outcome State Fault Refusal := .next (s.setReg x (s.reg x ||| s.reg y))

/-- AND Vx, Vy, 8XY2: VF is not reset (R136). -/
def execAndReg (x y : Reg) (s : State) : Outcome State Fault Refusal := .next (s.setReg x (s.reg x &&& s.reg y))

/-- XOR Vx, Vy, 8XY3: VF is not reset (R137). -/
def execXorReg (x y : Reg) (s : State) : Outcome State Fault Refusal := .next (s.setReg x (s.reg x ^^^ s.reg y))

/-- ADD Vx, Vy, 8XY4 (R138). -/
def execAddReg (x y : Reg) (s : State) : Outcome State Fault Refusal :=
  .next (s.setResultAndFlag x (s.reg x + s.reg y) (carryOut (s.reg x) (s.reg y)))

/-- SUB Vx, Vy, 8XY5 (R139). -/
def execSubReg (x y : Reg) (s : State) : Outcome State Fault Refusal :=
  .next (s.setResultAndFlag x (s.reg x - s.reg y) (notBorrow (s.reg x) (s.reg y)))

/-- SHR Vx, Vy, 8XY6 (R140). -/
def execShr (x y : Reg) (s : State) : Outcome State Fault Refusal :=
  .next (s.setResultAndFlag x (s.shiftOperand x y >>> 1) (shiftedOutRight (s.shiftOperand x y)))

/-- SUBN Vx, Vy, 8XY7 (R141). -/
def execSubn (x y : Reg) (s : State) : Outcome State Fault Refusal :=
  .next (s.setResultAndFlag x (s.reg y - s.reg x) (notBorrow (s.reg y) (s.reg x)))

/-- SHL Vx, Vy, 8XYE (R142). -/
def execShl (x y : Reg) (s : State) : Outcome State Fault Refusal :=
  .next (s.setResultAndFlag x (s.shiftOperand x y <<< 1) (shiftedOutLeft (s.shiftOperand x y)))

end Sys2Proof.Machine
end

