-- ==== Sys2Proof/Machine/FxOps.lean ====
section
/-! DEFINITION. Class F instructions: timers, key wait, index arithmetic, font, BCD, block moves (spec/46_fx_ops.md). -/

namespace Sys2Proof.Machine

open Host

/-- LD Vx, DT, FX07 (R180). -/
def execLdVDt (x : Reg) (s : State) : Outcome State Fault Refusal := .next (s.setReg x s.dt)

/-- LD DT, Vx, FX15 (R181). -/
def execLdDtV (x : Reg) (s : State) : Outcome State Fault Refusal := .next (s.setDt (s.reg x))

/-- LD ST, Vx, FX18 (R182). -/
def execLdStV (x : Reg) (s : State) : Outcome State Fault Refusal := .next (s.setSt (s.reg x))

/-- ADD I, Vx, FX1E: I mod 2^16, VF last (R183). -/
def execAddI (x : Reg) (s : State) : Outcome State Fault Refusal :=
  .next ((s.setI (s.i + (s.reg x).setWidth 16)).setReg vf (flagByte (indexOverflow s.i (s.reg x))))

/-- LD Vx, K, FX0A: with no key down `pc` goes back to `a`, else the lowest id is stored (R184). -/
def execLdVK (x : Reg) (s : State) : Outcome State Fault Refusal :=
  match KeySet.lowest s.keys with
  | none => .next (s.setPc (s.pc - 2))
  | some k => .next (s.setReg x (BitVec.ofNat 8 k))

/-- LD F, Vx, FX29 (R185). -/
def execLdF (x : Reg) (s : State) : Outcome State Fault Refusal := .next (s.setI (glyphAddr s.cfg (s.reg x)))

/-- LD B, Vx, FX33 (R186). -/
def execLdB (x : Reg) (s : State) : Outcome State Fault Refusal :=
  match s.memWrite s.i.toNat (bcdDigits (s.reg x)) with
  | .error bad => .next (s.fatal .memWriteOutOfRange (some bad) none)
  | .ok s' => .next s'

/-- LD [I], Vx, FX55 (R187). -/
def execLdMemV (x : Reg) (s : State) : Outcome State Fault Refusal :=
  match s.memWrite s.i.toNat (s.regsUpTo x) with
  | .error bad => .next (s.fatal .memWriteOutOfRange (some bad) none)
  | .ok s' => .next s'

/-- LD Vx, [I], FX65 (R188). -/
def execLdVMem (x : Reg) (s : State) : Outcome State Fault Refusal :=
  match s.memRead s.i.toNat (x.val + 1) with
  | .error bad => .next (s.fatal .memReadOutOfRange (some bad) none)
  | .ok bytes => .next (s.setV (setRegsFrom 0 bytes s.v))

end Sys2Proof.Machine
end

