-- ==== Sys2Proof/Machine/IndexDraw.lean ====
section
/-! DEFINITION. Class A and D instructions, set index and draw sprite (spec/44_index_draw.md). -/

namespace Sys2Proof.Machine

open Host

/-- LD I, nnn, ANNN (R150). -/
def execLdI (nnn : Addr12) (s : State) : Outcome State Fault Refusal := .next (s.setI (zext16 nnn))

/-- DRW Vx, Vy, n, DXYN (R151 to R155): the coordinates are latched before VF is written, only the drawn rows are read,
and a row out of memory is fatal before any effect. -/
def execDrw (x y : Reg) (n : Nat) (s : State) : Outcome State Fault Refusal :=
  match s.memRead s.i.toNat (s.drawnRows y n) with
  | .error bad => .next (s.fatal .memReadOutOfRange (some bad) none)
  | .ok bytes =>
    let d := drawRows (s.startColumn x) (s.startRow y) bytes { fb := s.fb, collision := false }
    .next ((s.setFb d.fb).setReg vf (flagByte d.collision))

end Sys2Proof.Machine
end

