-- ==== Sys2Proof/Machine/Jumps.lean ====
section
/-! DEFINITION. Class 0, 1 and 2 instructions (spec/41_system_jumps.md). `pc` is `a + 2` on entry to every meaning (R92). -/

namespace Sys2Proof.Machine

open Host

/-- CLS, 00E0 (R100). -/
def execCls (s : State) : Outcome State Fault Refusal := .next (s.setFb Framebuffer.clear)

/-- RET, 00EE (R101). -/
def execRet (s : State) : Outcome State Fault Refusal :=
  match s.pop with
  | none => .next (s.fatal .stackUnderflow none none)
  | some (v, s') => .next (s'.setPc v)

/-- JP nnn, 1NNN (R102). -/
def execJp (nnn : Addr12) (s : State) : Outcome State Fault Refusal := .next (s.setPc (zext16 nnn))

/-- CALL nnn, 2NNN: the pre-advanced `pc` is pushed (R103). -/
def execCall (nnn : Addr12) (s : State) : Outcome State Fault Refusal :=
  match s.push s.pc with
  | none => .next (s.fatal .stackOverflow none (some s.sp))
  | some s' => .next (s'.setPc (zext16 nnn))

end Sys2Proof.Machine
end

