-- ==== Sys2Proof/Machine/KeySkips.lean ====
section
/-! DEFINITION. Class E instructions, skip on key state (spec/45_key_skips.md). The whole byte V[X] is compared with the
key ids: a value above 15 names no key (R172). -/

namespace Sys2Proof.Machine

open Host

/-- SKP Vx, EX9E (R170). -/
def execSkp (x : Reg) (s : State) : Outcome State Fault Refusal :=
  .next (s.skipIf (KeySet.held s.keys (s.reg x).toNat))

/-- SKNP Vx, EXA1 (R171). -/
def execSknp (x : Reg) (s : State) : Outcome State Fault Refusal :=
  .next (s.skipIf (!KeySet.held s.keys (s.reg x).toNat))

end Sys2Proof.Machine
end

