-- ==== Sys2Proof/Machine/Skips.lean ====
section
/-! DEFINITION. Class 3, 4, 5 and 9 instructions, the conditional skips (spec/42_skips.md). -/

namespace Sys2Proof.Machine

open Host

/-- SE Vx, nn, 3XNN (R120). -/
def execSeImm (x : Reg) (nn : Byte) (s : State) : Outcome State Fault Refusal := .next (s.skipIf (s.reg x == nn))

/-- SNE Vx, nn, 4XNN (R121). -/
def execSneImm (x : Reg) (nn : Byte) (s : State) : Outcome State Fault Refusal := .next (s.skipIf (s.reg x != nn))

/-- SE Vx, Vy, 5XY0 (R122). -/
def execSeReg (x y : Reg) (s : State) : Outcome State Fault Refusal := .next (s.skipIf (s.reg x == s.reg y))

/-- SNE Vx, Vy, 9XY0 (R123). -/
def execSneReg (x y : Reg) (s : State) : Outcome State Fault Refusal := .next (s.skipIf (s.reg x != s.reg y))

end Sys2Proof.Machine
end

