-- ==== Sys2Proof/Machine/Cycle.lean ====
section
/-! DEFINITION. One cycle of the main loop (spec/30_encoding.md R90) and one move of an agent (spec/60_exceptions.md R225 to
R237). -/

namespace Sys2Proof.Machine

open Host

/-- `Execute(decode(w))` on the pre-advanced state (R84, R86, R90). -/
def executeDecoded (d : Decoded) (s : State) : Outcome State Fault Refusal :=
  match d with
  | .instr i => exec i s
  | .unmatched w => .next (execUnmatched w s)

/-- `Cycle()` on a running core (R90): the fetch check comes first (R91, R214), then `pc <- a + 2` (R92), then the
instruction. The throttle is timing only (R229, log 15). -/
def runCycle (s : State) : Outcome State Fault Refusal :=
  match s.fetchWord with
  | none => .next (raiseFatal s.pc .pcOutOfRange none none s)
  | some w => executeDecoded (decode w) s.advance

/-- The main loop's turn: a cycle requires status = running (R90); a halted core takes none, for ever (R212). -/
def mainLoopTurn (s : State) : Outcome State Fault Refusal :=
  match s.status with
  | .running => runCycle s
  | .halted r => .fault (.coreHalted r)

/-- One atomic move of an agent (R225, R228). The ticker and the host move whether the core is halted or not (R226). -/
def takeMove (m : Move) (s : State) : Outcome State Fault Refusal :=
  match m with
  | .mainLoop => mainLoopTurn s
  | .tick => .next (tick s)
  | .keys k => .next (s.setKeys k)
  | .quit => .fault .hostQuit

/-- The next move: the first of the schedule; the main loop's when the schedule is empty (DESIGN CHOICE, log 3). -/
def State.nextMove (s : State) : Move :=
  match s.schedule with
  | [] => .mainLoop
  | m :: _ => m

/-- The moves that stay scheduled when the next one is taken. An empty schedule stands for rounds of one cycle and one tick,
so the main loop's move leaves a tick to come: once the listed moves are taken every agent that can step eventually does (R259;
DESIGN CHOICE of that order, log 3). -/
def State.laterMoves (s : State) : List Move :=
  match s.schedule with
  | [] => [.tick]
  | _ :: rest => rest

/-- The state with its next move taken off the schedule. -/
def State.popMove (s : State) : State := s.setSchedule s.laterMoves

end Sys2Proof.Machine
end

