-- ==== Sys2Proof/Machine/Step.lean ====
section
/-! DEFINITION. The step: one move of the agent whose turn it is (log 3). -/

namespace Sys2Proof.Machine

/-- One step of the machine: the next move of the schedule is taken. -/
def step (s : State) : Host.Outcome State Fault Refusal := takeMove s.nextMove s.popMove

/-- `s` with the table row's word placed where the next step fetches (log 18). -/
def State.withFetchWord (s : State) (nbits w : Nat) : State := s.placeWord (tableWord nbits w)

end Sys2Proof.Machine
end

