-- ==== Sys2Proof/Machine/Boot.lean ====
section
/-! DEFINITION. Reset and load (spec/70_reset_and_hazards.md R251, R252) with the load-time errors (spec/60_exceptions.md
R219). -/

namespace Sys2Proof.Machine

/-- The fatal-at-load errors (R219): the machine does not start, no cycle runs. -/
inductive LoadError where
  | romUnreadable
  | configUnavailable
  | romTooLarge
deriving DecidableEq, Repr

/-- The codes of R219. -/
def LoadError.code : LoadError → Nat
  | .romUnreadable => 101
  | .configUnavailable => 102
  | .romTooLarge => 103

/-- The quirk configuration as the host reads it: `ignore_shift_y`, if it is set there (R235). -/
structure QuirkConfig where
  ignoreShiftY : Option Bool
deriving DecidableEq, Repr

/-- What a boot comes to: a machine ready for its first cycle, or a load-time error. -/
inductive BootResult where
  | started (s : State)
  | failed (e : LoadError)
deriving DecidableEq, Repr

/-- `Boot(image, config)` on a machine with the parameters `hw` (R251): `none` is an image or a configuration that cannot
be read (log 19). -/
def boot (hw : Config) (image : Option (List Byte)) (quirk : Option QuirkConfig) : BootResult :=
  match quirk with
  | none => .failed .configUnavailable
  | some q =>
    match image with
    | none => .failed .romUnreadable
    | some bytes =>
      if bytes.length > progMax then .failed .romTooLarge
      else
        let s := State.initial { hw with shiftIgnoresY := q.ignoreShiftY.getD true }
        .started (s.setMem (Memory.writeBlock s.cfg progBase bytes s.mem))

end Sys2Proof.Machine
end

