-- ==== Sys2Proof/Safety.lean ====
section
/-! DEFINITION. What a good state and a safe run are, in the terms claims use (spec/10_state.md R26, R35, R42, spec/60_exceptions.md
R240, R241). -/

namespace Sys2Proof.Machine

/-- A record a fatal error of R211 leaves: `addr` is an address above 4095 and given for memory faults only, `depth` is
STACK_DEPTH and given for STACK_OVERFLOW only, and the unreachable reason is never recorded (R23, R42, R211). -/
def FaultRecord.wellFormed (cfg : Config) (r : FaultRecord) : Prop :=
  match r.reason with
  | .pcOutOfRange => r.addr = none ∧ r.depth = none ∧ r.pcFault.toNat > 4094
  | .stackUnderflow => r.addr = none ∧ r.depth = none ∧ r.pcFault.toNat ≤ 4094
  | .stackOverflow => r.addr = none ∧ r.depth = some cfg.stackDepth ∧ r.pcFault.toNat ≤ 4094
  | .memReadOutOfRange | .memWriteOutOfRange =>
    (∃ a, r.addr = some a ∧ 4096 ≤ a) ∧ r.depth = none ∧ r.pcFault.toNat ≤ 4094
  | .registerIndexOutOfRange => False

/-- The invariant of every state a run reaches. -/
structure State.Inv (s : State) : Prop where
  /-- The parameters keep the bounds of R6. -/
  cfg_wf : s.cfg.wf = true
  /-- Memory keeps its canonical form and lists only addresses 0..4095 (R50). -/
  mem_wf : Memory.wf s.cfg s.mem
  /-- 0 ≤ SP ≤ STACK_DEPTH (R35). -/
  stack_depth : s.stack.length ≤ s.cfg.stackDepth
  /-- A return address is an instruction's address plus 2, so at most 4096 (R26, R103). -/
  stack_addr : ∀ v ∈ s.stack, v.toNat ≤ 4096
  /-- The largest value `pc` can hold is 0x1002 (R26). -/
  pc_bound : s.pc.toNat ≤ 0x1002
  /-- A halted core holds a record of R211, and `pc` is the faulting address (R42, R212). -/
  halted_record : ∀ r, s.status = .halted r → r.pcFault = s.pc ∧ r.wellFormed s.cfg

/-- `k` steps lead from `s` to `t`, no step stopping with a fault or a refusal. -/
def Steps (k : Nat) (s t : State) : Prop := Sys2Proof.core.run k s = .next t

/-! ## Endless executions (R228, R259) -/

/-- The agent's move `m` leads from `s` to `t`, whatever moves the two states have scheduled. -/
def Moves (m : Move) (s t : State) : Prop := step (s.setSchedule [m]) = .next (t.setSchedule [])

/-- An endless execution: the states `σ`, the moves `μ` that lead from each to the next, the agents interleaving in any order
(R259). A stream of moves is no part of a state: it is what the agents do, in neither's control (R228). -/
def Execution (σ : Nat → State) (μ : Nat → Move) : Prop := ∀ n, Moves (μ n) (σ n) (σ (n + 1))

/-- Fairness, the only assumption about time: each agent that can step eventually does (R259; weak fairness, 92_eei_decisions.md
D24). The ticker can always step (R226), the main loop while the core is running (R90). -/
structure Fair (σ : Nat → State) (μ : Nat → Move) : Prop where
  ticker : ∀ n, ∃ m, n ≤ m ∧ μ m = .tick
  mainLoop : ∀ n, (∀ m, n ≤ m → (σ m).status = .running) → ∃ m, n ≤ m ∧ μ m = .mainLoop

/-- An endless run of the machine's own step. -/
def EndlessRun (σ : Nat → State) : Prop := ∀ n, step (σ n) = .next (σ (n + 1))

/-- The core is about to run a jump to itself at `e`, the end idiom of R89. -/
def State.atEnd (s : State) (e : Addr12) : Prop := s.pc = zext16 e ∧ s.fetchWord = some (encode (.jp e))

/-- A program reaches its end at `e` (R240): the core is running there. A run that is halted or that the host stopped has
not reached it (R241). -/
def ReachesEnd (s : State) (e : Addr12) : Prop := ∃ k t, Steps k s t ∧ t.status = .running ∧ t.atEnd e

end Sys2Proof.Machine
end

