-- ==== Sys2Proof/Certificates/Slice0/Obligations.lean ====
section
/-! DEFINITION. The statements for the provers, from the numbered rules of spec/. The state given to `exec` has
`pc = a + 2` (R92), so `s.pc - 2` is the instruction's own address `a`. -/

namespace Sys2Proof.Claims

open Sys2Proof.Machine

/-! ## Words as the rules' "Encoding" lines write them -/

/-- `base | X<<8 | Y<<4`. -/
def wordXY (base : Word) (x y : Reg) : Word := base ||| (BitVec.ofNat 16 x.val <<< 8) ||| (BitVec.ofNat 16 y.val <<< 4)

/-- `base | X<<8 | NN`. -/
def wordXNN (base : Word) (x : Reg) (nn : Byte) : Word := base ||| (BitVec.ofNat 16 x.val <<< 8) ||| nn.setWidth 16

/-- `base | NNN`. -/
def wordNNN (base : Word) (nnn : Addr12) : Word := base ||| nnn.setWidth 16

/-- `base | X<<8`. -/
def wordX (base : Word) (x : Reg) : Word := base ||| (BitVec.ofNat 16 x.val <<< 8)

/-- The word `w` and the instruction `i` stand for each other. -/
def Encodes (w : Word) (i : Instr) : Prop := decode w = .instr i ∧ encode i = w

/-! ## What an instruction leaves unchanged -/

/-- What an instruction may change, as data of the statement: registers, single fields, bytes of memory. -/
structure MayChange where
  reg : Reg → Bool
  pc : Bool
  i : Bool
  dt : Bool
  st : Bool
  stack : Bool
  fb : Bool
  byte : Nat → Bool

/-- Nothing may change. -/
def nothing : MayChange where
  reg := fun _ => false
  pc := false
  i := false
  dt := false
  st := false
  stack := false
  fb := false
  byte := fun _ => false

/-- From `s` to `t` only what `c` names has changed: every other register, field and byte of memory is the same, and so
are the keys, the halt status, the parameters, the schedule and the log. -/
structure Frame (c : MayChange) (s t : State) : Prop where
  reg : ∀ r, c.reg r = false → t.reg r = s.reg r
  pc : c.pc = false → t.pc = s.pc
  i : c.i = false → t.i = s.i
  dt : c.dt = false → t.dt = s.dt
  st : c.st = false → t.st = s.st
  stack : c.stack = false → t.stack = s.stack
  fb : c.fb = false → t.fb = s.fb
  byte : ∀ a, c.byte a = false → t.readByte a = s.readByte a
  keys : t.keys = s.keys
  status : t.status = s.status
  cfg : t.cfg = s.cfg
  schedule : t.schedule = s.schedule
  log : t.log = s.log

/-- Only register `x` may change. -/
def onlyReg (x : Reg) : MayChange := { nothing with reg := fun r => r == x }

/-- Only register `x` and VF may change. -/
def onlyRegAndVF (x : Reg) : MayChange := { nothing with reg := fun r => r == x || r == vf }

/-- Only `pc` may change. -/
def onlyPc : MayChange := { nothing with pc := true }

/-! ## The tables of R22, R25 and R59 -/

/-- The "writes" column of R22. -/
def writesReg : Instr → Reg → Bool
  | .ldImm x _, r | .addImm x _, r | .ldReg x _, r | .orReg x _, r | .andReg x _, r | .xorReg x _, r | .ldVDt x, r
  | .ldVK x, r => r == x
  | .addReg x _, r | .subReg x _, r | .shr x _, r | .subn x _, r | .shl x _, r => r == x || r == vf
  | .drw _ _ _, r | .addI _, r => r == vf
  | .ldVMem x, r => decide (r ≤ x)
  | _, _ => false

/-- The "reads" column of R22. -/
def readsReg (cfg : Config) : Instr → Reg → Bool
  | .seImm x _, r | .sneImm x _, r | .addImm x _, r | .skp x, r | .sknp x, r | .ldDtV x, r | .ldStV x, r | .ldF x, r
  | .ldB x, r | .addI x, r => r == x
  | .seReg x y, r | .sneReg x y, r | .orReg x y, r | .andReg x y, r | .xorReg x y, r | .addReg x y, r | .subReg x y, r
  | .subn x y, r | .drw x y _, r => r == x || r == y
  | .ldReg _ y, r => r == y
  | .shr x y, r | .shl x y, r => if cfg.shiftIgnoresY then r == x else r == y
  | .ldMemV x, r => decide (r ≤ x)
  | _, _ => false

/-- The bytes of memory an instruction writes (R59). -/
def storesByte (s : State) : Instr → Nat → Bool
  | .ldB _, a => decide (s.i.toNat ≤ a ∧ a ≤ s.i.toNat + 2)
  | .ldMemV x, a => decide (s.i.toNat ≤ a ∧ a ≤ s.i.toNat + x.val)
  | _, _ => false

/-- The instructions whose row of R25 is not "a + 2" on every path. -/
def changesPc : Instr → Bool
  | .ret | .jp _ | .call _ | .seImm _ _ | .sneImm _ _ | .seReg _ _ | .sneReg _ _ | .skp _ | .sknp _ | .ldVK _ => true
  | _ => false

/-- ANNN, FX1E and FX29 write I (R29). -/
def changesI : Instr → Bool
  | .ldI _ | .addI _ | .ldF _ => true
  | _ => false

/-- FX15 writes DT (R32). -/
def changesDt : Instr → Bool
  | .ldDtV _ => true
  | _ => false

/-- FX18 writes ST (R33). -/
def changesSt : Instr → Bool
  | .ldStV _ => true
  | _ => false

/-- 2NNN pushes and 00EE pops (R36, R37). -/
def changesStack : Instr → Bool
  | .ret | .call _ => true
  | _ => false

/-- 00E0 and DXYN access the framebuffer (R38). -/
def changesFb : Instr → Bool
  | .cls | .drw _ _ _ => true
  | _ => false

/-- Everything an instruction may change: R22 for registers, R25 for `pc`, R29 for I, R32 for DT, R33 for ST, R37 for the
stack, R38 for the framebuffer, R59 for memory. -/
def mayChange (i : Instr) (s : State) : MayChange where
  reg := writesReg i
  pc := changesPc i
  i := changesI i
  dt := changesDt i
  st := changesSt i
  stack := changesStack i
  fb := changesFb i
  byte := storesByte s i

/-- The rows DXYN draws: min(N, 32 − y0) with y0 = V[Y] mod 32 (R151). -/
def rowsOf (s : State) (y : Reg) (n : Nat) : Nat := min n (32 - (s.reg y).toNat % 32)

/-- The table of R211 for the errors an instruction raises: the record it leaves, or none where it raises none. -/
def fatalRecord (i : Instr) (s : State) : Option FaultRecord :=
  match i with
  | .ret => if s.stack = [] then some ⟨.stackUnderflow, s.pc - 2, none, none⟩ else none
  | .call _ =>
    if s.cfg.stackDepth ≤ s.stack.length then some ⟨.stackOverflow, s.pc - 2, none, some s.stack.length⟩ else none
  | .drw _ y n =>
    if 0 < rowsOf s y n ∧ s.i.toNat + rowsOf s y n - 1 > 4095 then
      some ⟨.memReadOutOfRange, s.pc - 2, some (max s.i.toNat 4096), none⟩
    else none
  | .ldVMem x =>
    if s.i.toNat + x.val > 4095 then some ⟨.memReadOutOfRange, s.pc - 2, some (max s.i.toNat 4096), none⟩ else none
  | .ldB _ =>
    if s.i.toNat + 2 > 4095 then some ⟨.memWriteOutOfRange, s.pc - 2, some (max s.i.toNat 4096), none⟩ else none
  | .ldMemV x =>
    if s.i.toNat + x.val > 4095 then some ⟨.memWriteOutOfRange, s.pc - 2, some (max s.i.toNat 4096), none⟩ else none
  | _ => none

/-- The state a fatal error at address `a` leaves: the one from before the instruction, but for `pc`, the halt status and
the report to the log (R212, R237). -/
def haltedAt (s : State) (r : FaultRecord) : State :=
  { s with pc := r.pcFault, status := .halted r, log := s.log ++ [.fatal r] }

/-- The table of R25, in terms of the instruction's own address `a`. -/
def pcAfter (i : Instr) (s : State) : Word :=
  let a := s.pc - 2
  match i with
  | .seImm x nn => if s.reg x = nn then a + 4 else a + 2
  | .sneImm x nn => if s.reg x ≠ nn then a + 4 else a + 2
  | .seReg x y => if s.reg x = s.reg y then a + 4 else a + 2
  | .sneReg x y => if s.reg x ≠ s.reg y then a + 4 else a + 2
  | .skp x => if ∃ k : Fin 16, k.val = (s.reg x).toNat ∧ s.keys[k.val] = true then a + 4 else a + 2
  | .sknp x => if ∃ k : Fin 16, k.val = (s.reg x).toNat ∧ s.keys[k.val] = true then a + 2 else a + 4
  | .jp nnn | .call nnn => nnn.setWidth 16
  | .ret => s.stack.getLast?.getD a
  | .ldVK _ => if ∃ k : Fin 16, s.keys[k.val] = true then a + 2 else a
  | _ => a + 2

/-! ## Sprites -/

/-- The sprite `bytes` placed at column `x0`, row `y0` has a 1 on pixel (x, y) of the grid (R155); a pixel off the grid is
clipped (R153). -/
def SpriteLit (s : State) (x0 y0 rows x y : Nat) : Prop :=
  x < 64 ∧ y < 32 ∧ x0 ≤ x ∧ x < x0 + 8 ∧ y0 ≤ y ∧ y < y0 + rows ∧
    (s.readByte (s.i.toNat + (y - y0))).getLsbD (7 - (x - x0)) = true

/-- Pixel (x, y) of the framebuffer is lit. -/
def Lit (s : State) (x y : Nat) : Prop := Framebuffer.pixel s.fb x y = true

/-! ## Outcomes -/

/-- The same outcome with its next state changed by `f`. -/
def mapNext (f : State → State) : Host.Outcome State Fault Refusal → Host.Outcome State Fault Refusal
  | .next t => .next (f t)
  | .fault r => .fault r
  | .refused r => .refused r

/-- The main loop moves next, on a running core. -/
def MainLoopTurn (s : State) : Prop := s.status = .running ∧ s.nextMove = .mainLoop

/-- The two bytes at `pc`, big-endian (R56). -/
def wordAtPc (s : State) : Word := s.readByte s.pc.toNat ++ s.readByte (s.pc.toNat + 1)

end Sys2Proof.Claims

open Sys2Proof Sys2Proof.Machine Sys2Proof.Claims

/-! ## Encoding -/

/-- R83, R84: no bit of an operand is lost between the encoder and the decoder. -/
def Obligations.DecodeOfEncodeIsTheInstruction : Prop :=
  ∀ i : Instr, i.wf = true → decode (encode i) = .instr i

/-- R83, R84: each word has at most one meaning, and every instruction the decoder answers is well formed. -/
def Obligations.EncodeOfDecodeIsTheWord : Prop :=
  ∀ (w : Word) (i : Instr), decode w = .instr i → i.wf = true ∧ encode i = w

/-- R83: the decode function of R84 and the mask and match table agree on every word, and no two rows match one word. -/
def Obligations.DecodeAgreesWithTheOpcodeTable : Prop :=
  opcodeTable.length = 32 ∧
  (∀ (w : Word) (i : Instr), decode w = .instr i → ∃ r ∈ opcodeTable, r.number = i.row ∧ r.covers w) ∧
  (∀ (w : Word), ∀ r ∈ opcodeTable, r.covers w → ∃ i, decode w = .instr i ∧ i.row = r.number) ∧
  (∀ (w : Word), ∀ r ∈ opcodeTable, ∀ q ∈ opcodeTable, r.covers w → q.covers w → r = q)

/-- R85: the unmatched words, by their nibbles. -/
def Obligations.UnmatchedWordsAreExactlyThoseOfTheRule : Prop :=
  ∀ w : Word, decode w = .unmatched w ↔
    (w.toNat < 0x1000 ∧ w ≠ 0x00E0#16 ∧ w ≠ 0x00EE#16) ∨
    ((w.toNat / 4096 = 0x5 ∨ w.toNat / 4096 = 0x9) ∧ w.toNat % 16 ≠ 0) ∨
    (w.toNat / 4096 = 0x8 ∧ w.toNat % 16 ∈ [0x8, 0x9, 0xA, 0xB, 0xC, 0xD, 0xF]) ∨
    (w.toNat / 4096 = 0xB ∨ w.toNat / 4096 = 0xC) ∨
    (w.toNat / 4096 = 0xE ∧ w.toNat % 256 ∉ [0x9E, 0xA1]) ∨
    (w.toNat / 4096 = 0xF ∧ w.toNat % 256 ∉ [0x07, 0x0A, 0x15, 0x18, 0x1E, 0x29, 0x33, 0x55, 0x65])

/-- R80, R56: the decoder takes two bytes, the first the high one. -/
def Obligations.DecoderTakesTwoBytesBigEndian : Prop :=
  (∀ (hi lo : Byte) (rest : List Byte), decodeBytes (hi :: lo :: rest) = .word (decode (hi ++ lo)) rest) ∧
  decodeBytes [] = .truncated ∧ (∀ b : Byte, decodeBytes [b] = .truncated)

/-- Words written out from R81's formats, one or more of every family. -/
def Obligations.SampleWordsDecodeAsWritten : Prop :=
  decode 0b0000000011100000#16 = .instr .cls ∧
  decode 0b0001001000000100#16 = .instr (.jp 0x204#12) ∧
  decode 0b0011000100000000#16 = .instr (.seImm 1 0x00#8) ∧
  decode 0b1000000100100111#16 = .instr (.subn 1 2) ∧
  decode 0b1010001011110000#16 = .instr (.ldI 0x2F0#12) ∧
  decode 0b1101000100100101#16 = .instr (.drw 1 2 5) ∧
  decode 0b1110001110100001#16 = .instr (.sknp 3) ∧
  decode 0b1111001001100101#16 = .instr (.ldVMem 2) ∧
  decode 0b0000000100100011#16 = .unmatched 0x0123#16

/-! ## The cycle -/

/-- R90, R92: a cycle of the main loop runs the instruction fetched at `pc`, with `pc` already at `a + 2`. -/
def Obligations.StepRunsTheDecodedInstruction : Prop :=
  ∀ (s : State) (i : Instr), MainLoopTurn s → s.pc.toNat ≤ 4094 → decode (wordAtPc s) = .instr i →
    step s = exec i { s with pc := s.pc + 2, schedule := s.laterMoves }

/-- R86: an unmatched word changes nothing but `pc`, and is reported with its address. -/
def Obligations.UnmatchedWordIsALoggedNoOp : Prop :=
  ∀ (s : State), MainLoopTurn s → s.pc.toNat ≤ 4094 → decode (wordAtPc s) = .unmatched (wordAtPc s) →
    step s = .next { s with
      pc := s.pc + 2, schedule := s.laterMoves, log := s.log ++ [.unmatched (wordAtPc s) s.pc] }

/-- R91: a fetch above 4094 is fatal, and nothing is decoded (R214). -/
def Obligations.FetchAbove4094IsFatal : Prop :=
  ∀ (s : State), MainLoopTurn s → s.pc.toNat > 4094 →
    step s = .next (haltedAt { s with schedule := s.laterMoves } ⟨.pcOutOfRange, s.pc, none, none⟩)

/-- R87: every word decodes or is an unmatched no-op, and so a running core whose host does not quit always has a next
state: no instruction stops the model. -/
def Obligations.RunningCoreAlwaysHasANextState : Prop :=
  (∀ w : Word, (∃ i, decode w = .instr i) ∨ decode w = .unmatched w) ∧
  (∀ (i : Instr) (s : State), ∃ t, exec i s = .next t) ∧
  (∀ s : State, s.status = .running → s.nextMove ≠ .quit → ∃ t, step s = .next t)

/-- R212, R213: the main loop takes no cycle on a halted core (that its turn there is a fault of `step` is DEDUCED, log 5), and
over any number of steps of the other agents it stays halted with its record: only the timers, the keys and the schedule may
differ (R226). -/
def Obligations.HaltedCoreNeverResumes : Prop :=
  (∀ (s : State) (r : FaultRecord), s.status = .halted r → s.nextMove = .mainLoop → step s = .fault (.coreHalted r)) ∧
  ∀ (k : Nat) (s t : State) (r : FaultRecord), s.status = .halted r → Steps k s t →
    t.status = .halted r ∧ t.pc = s.pc ∧ t.v = s.v ∧ t.i = s.i ∧ t.stack = s.stack ∧ t.fb = s.fb ∧ t.mem = s.mem ∧
    t.cfg = s.cfg ∧ t.log = s.log

/-- R94, R211, R212: a fatal error discards the instruction's writes: only `pc`, the halt status and the log differ. The
reasons have the codes of R211. -/
def Obligations.FatalErrorsArePreciseAndRecorded : Prop :=
  (∀ (i : Instr) (s : State) (r : FaultRecord), fatalRecord i s = some r → exec i s = .next (haltedAt s r)) ∧
  [FatalReason.pcOutOfRange, .stackUnderflow, .stackOverflow, .memReadOutOfRange, .memWriteOutOfRange,
    .registerIndexOutOfRange].map FatalReason.code = [1, 2, 3, 4, 5, 6]

/-- R214, R23: each instruction raises at most the one reason the rule gives it, and no instruction raises the last. -/
def Obligations.EachInstructionRaisesOnlyItsReason : Prop :=
  ∀ (i : Instr) (s t : State) (r : FaultRecord), s.status = .running → exec i s = .next t → t.status = .halted r →
    r.reason ≠ .registerIndexOutOfRange ∧ r.reason ≠ .pcOutOfRange ∧
    (r.reason = .stackUnderflow ↔ i = .ret) ∧
    (r.reason = .stackOverflow ↔ ∃ nnn, i = .call nnn) ∧
    (r.reason = .memReadOutOfRange ↔ (∃ x y n, i = .drw x y n) ∨ ∃ x, i = .ldVMem x) ∧
    (r.reason = .memWriteOutOfRange ↔ (∃ x, i = .ldB x) ∨ ∃ x, i = .ldMemV x)

/-! ## All instructions at once -/

/-- Every instruction that raises no fatal error completes, and changes only what the tables of R22, R25 and R59 name. -/
def Obligations.EveryInstructionCompletesWithinItsFrame : Prop :=
  ∀ (i : Instr) (s : State), fatalRecord i s = none → ∃ t, exec i s = .next t ∧ Frame (mayChange i s) s t

/-- R22: an instruction writes no register outside its "writes" column, and the value of a register outside its "reads"
column reaches nothing: two runs that differ in that register alone end alike but for it, and where the instruction
writes it they end equal (FX0A writes V[X] when a key is down, R184). -/
def Obligations.InstructionsReadAndWriteOnlyTheirRegisters : Prop :=
  ∀ (i : Instr) (s : State), ∃ t, exec i s = .next t ∧
    (∀ r, writesReg i r = false → t.reg r = s.reg r) ∧
    (∀ r b, readsReg s.cfg i r = false → ∃ t', exec i (s.setReg r b) = .next t' ∧ t'.setReg r 0 = t.setReg r 0 ∧
      (writesReg i r = true → fatalRecord i s = none → (∀ x, i = .ldVK x → ∃ k : Fin 16, s.keys[k.val] = true) →
        t' = t))

/-- R25: the value of `pc` at the end of each instruction. -/
def Obligations.ProgramCounterAfterEveryInstruction : Prop :=
  ∀ (i : Instr) (s : State), fatalRecord i s = none → ∃ t, exec i s = .next t ∧ t.pc = pcAfter i s

/-- R39, R233: only EX9E, EXA1 and FX0A see the key state, and no instruction changes it. -/
def Obligations.OnlyKeyInstructionsSeeTheKeys : Prop :=
  ∀ (i : Instr) (s : State) (k : KeySet), (∀ x, i ≠ .skp x) → (∀ x, i ≠ .sknp x) → (∀ x, i ≠ .ldVK x) →
    exec i (s.setKeys k) = mapNext (fun t => t.setKeys k) (exec i s)

/-- R40: only 8XY6 and 8XYE see SHIFT_IGNORES_Y, and no instruction changes it. -/
def Obligations.OnlyShiftsSeeTheQuirk : Prop :=
  ∀ (i : Instr) (s : State) (b : Bool), (∀ x y, i ≠ .shr x y) → (∀ x y, i ≠ .shl x y) →
    exec i { s with cfg := { s.cfg with shiftIgnoresY := b } } =
      mapNext (fun t => { t with cfg := { t.cfg with shiftIgnoresY := b } }) (exec i s)

/-- R39, R40: no step of any agent changes the parameters, and only the host changes the keys. -/
def Obligations.NoStepWritesTheParametersOrTheKeys : Prop :=
  ∀ s t : State, step s = .next t → t.cfg = s.cfg ∧ ((∀ k, s.nextMove ≠ .keys k) → t.keys = s.keys)

/-! ## Invariants, reset and boot -/

/-- Every step keeps the invariant: canonical memory (R50), the stack's depth (R35), the bound of `pc` (R26), the halt
record (R42). -/
def Obligations.EveryStepKeepsTheInvariant : Prop :=
  ∀ s t : State, s.Inv → step s = .next t → t.Inv

/-- The invariant holds at reset. -/
def Obligations.ResetMeetsTheInvariant : Prop := State.reset.Inv

/-- The invariant holds after every boot that starts the machine. -/
def Obligations.BootMeetsTheInvariant : Prop :=
  ∀ (hw : Config) (image : Option (List Byte)) (quirk : Option QuirkConfig) (s : State),
    hw.wf = true → boot hw image quirk = .started s → s.Inv

/-- R44, R250: the values after reset, no image loaded. -/
def Obligations.ResetValuesAreTheSpecs : Prop :=
  State.reset.pc = 0x200#16 ∧ (∀ r, State.reset.reg r = 0) ∧ State.reset.i = 0 ∧ State.reset.dt = 0 ∧
  State.reset.st = 0 ∧ State.reset.stack = [] ∧ State.reset.sp = 0 ∧ (∀ x y, ¬ Lit State.reset x y) ∧
  State.reset.status = .running ∧ State.reset.cfg.shiftIgnoresY = true ∧
  (∀ a, State.reset.readByte a = if 0x050 ≤ a ∧ a < 0x050 + 80 then fontTable[a - 0x050]?.getD 0 else 0)

/-- R251, R252, R219: what a boot leaves, and the errors it stops on. -/
def Obligations.BootLoadsTheImageOrRefusesIt : Prop :=
  [LoadError.romUnreadable, .configUnavailable, .romTooLarge].map LoadError.code = [101, 102, 103] ∧
  ∀ (hw : Config), hw.wf = true →
    (∀ image, boot hw image none = .failed .configUnavailable) ∧
    (∀ q, boot hw none (some q) = .failed .romUnreadable) ∧
    (∀ bytes q, bytes.length > 3584 → boot hw (some bytes) (some q) = .failed .romTooLarge) ∧
    (∀ bytes q, bytes.length ≤ 3584 → ∃ s, boot hw (some bytes) (some q) = .started s ∧
      s.cfg = { hw with shiftIgnoresY := q.ignoreShiftY.getD true } ∧
      s.pc = 512#16 ∧ (∀ r, s.reg r = 0) ∧ s.i = 0 ∧ s.dt = 0 ∧ s.st = 0 ∧ s.sp = 0 ∧ (∀ x y, ¬ Lit s x y) ∧
      s.status = .running ∧
      (∀ k b, bytes[k]? = some b → s.readByte (512 + k) = b) ∧
      (∀ k b, hw.fontData[k]? = some b → s.readByte (hw.fontBase + k) = b) ∧
      (∀ a, ¬ (512 ≤ a ∧ a < 512 + bytes.length) → ¬ (hw.fontBase ≤ a ∧ a < hw.fontBase + 80) → s.readByte a = 0))

/-! ## Memory -/

/-- R52: an access is checked whole before any byte moves, and a write changes exactly its bytes. -/
def Obligations.MemoryAccessesAreCheckedWhole : Prop :=
  ∀ (s : State) (addr n : Nat) (bytes : List Byte), 0 < n → bytes.length = n →
    (addr + n - 1 > 4095 → s.memRead addr n = .error (max addr 4096) ∧ s.memWrite addr bytes = .error (max addr 4096)) ∧
    (addr + n - 1 ≤ 4095 →
      (∃ got, s.memRead addr n = .ok got ∧ got.length = n ∧ ∀ k, k < n → got[k]? = some (s.readByte (addr + k))) ∧
      (∃ t, s.memWrite addr bytes = .ok t ∧ Frame { nothing with byte := fun a => decide (addr ≤ a ∧ a < addr + n) } s t ∧
        ∀ k, k < n → bytes[k]? = some (t.readByte (addr + k))))

/-- Memories in canonical form that read alike are equal data. -/
def Obligations.MemoriesThatReadAlikeAreEqual : Prop :=
  ∀ (cfg : Config) (m m' : Memory), Memory.wf cfg m → Memory.wf cfg m' →
    (∀ a, Memory.read cfg m a = Memory.read cfg m' a) → m = m'

/-- R57, R67: the word FX55 stores at I is the word a later fetch at I reads. -/
def Obligations.StoredRegistersAreFetchedAsCode : Prop :=
  ∀ (x : Reg) (s : State), 1 ≤ x.val → s.i.toNat + x.val ≤ 4095 →
    ∃ t, exec (.ldMemV x) s = .next t ∧ (t.setPc s.i).fetchWord = some (s.reg 0 ++ s.reg 1)

/-- R189: FX55 then FX65 at the same I and X, with no write to those bytes between, gives V0 to VX back; past address 4095
both fault. -/
def Obligations.BlockMoveRoundTrip : Prop :=
  ∀ (x : Reg) (s : State),
    (s.i.toNat + x.val ≤ 4095 → ∃ t, exec (.ldMemV x) s = .next t ∧ t.i = s.i ∧
      ∀ t' : State, t'.i = t.i → (∀ k, k ≤ x.val → t'.readByte (t.i.toNat + k) = t.readByte (t.i.toNat + k)) →
        ∃ u, exec (.ldVMem x) t' = .next u ∧ u.i = t'.i ∧ ∀ r, r ≤ x → u.reg r = s.reg r) ∧
    (s.i.toNat + x.val > 4095 →
      exec (.ldMemV x) s =
        .next (haltedAt s ⟨.memWriteOutOfRange, s.pc - 2, some (max s.i.toNat 4096), none⟩) ∧
      exec (.ldVMem x) s =
        .next (haltedAt s ⟨.memReadOutOfRange, s.pc - 2, some (max s.i.toNat 4096), none⟩))

/-! ## Timers and the host -/

/-- R226, R227: a tick, on a running or a halted core. -/
def Obligations.TickDecrementsAndClampsAtZero : Prop :=
  ∀ s : State, s.nextMove = .tick →
    ∃ t, step s = .next t ∧ t.dt.toNat = s.dt.toNat - 1 ∧
      t.st.toNat = (if s.cfg.soundTimerDecays then s.st.toNat - 1 else s.st.toNat) ∧
      t = { s with dt := t.dt, st := t.st, schedule := s.laterMoves }

/-- Source property S7 and R226: `n` ticks in a row take `n` off DT, never below zero. -/
def Obligations.TicksNeverTakeTheTimerBelowZero : Prop :=
  ∀ (n : Nat) (s : State) (rest : List Move), s.schedule = List.replicate n .tick ++ rest →
    ∃ t, Steps n s t ∧ t.dt.toNat = s.dt.toNat - n ∧ t.schedule = rest

/-- R228, R63, R256, R259: a tick before FX07's read and a tick after it are both executions, which differ in the value read
alone; between an FX15 and an FX07 any number of ticks may fall; and every finite beginning of an execution, in whichever order the
agents move, is a run of `step` on the state that has that order scheduled (that the order is scheduled in the state is the
model's, log 3). -/
def Obligations.TickBeforeOrAfterTheRead : Prop :=
  (∀ (x : Reg) (s : State), s.status = .running → s.pc.toNat ≤ 4094 → decode (wordAtPc s) = .instr (.ldVDt x) →
    ∃ t u, Steps 2 (s.setSchedule [.tick, .mainLoop]) t ∧ Steps 2 (s.setSchedule [.mainLoop, .tick]) u ∧
      (t.reg x).toNat = s.dt.toNat - 1 ∧ u.reg x = s.dt ∧ t.dt.toNat = s.dt.toNat - 1 ∧ u = t.setReg x s.dt) ∧
  (∀ (x y : Reg) (j : Nat) (s : State), s.status = .running → s.pc.toNat ≤ 4092 →
    decode (wordAtPc s) = .instr (.ldDtV x) → decode (wordAtPc (s.setPc (s.pc + 2))) = .instr (.ldVDt y) →
    ∃ t, Steps (j + 2) (s.setSchedule (.mainLoop :: (List.replicate j .tick ++ [.mainLoop]))) t ∧
      (t.reg y).toNat = (s.reg x).toNat - j) ∧
  (∀ (σ : Nat → State) (μ : Nat → Move), Execution σ μ →
    ∀ n, Steps n ((σ 0).setSchedule ((List.range n).map μ)) ((σ n).setSchedule []))

/-- R256: between FX15s DT never rises, whichever agent moves, and in a fair execution (R259) it reaches 0 and stays there. -/
def Obligations.DelayTimerRisesOnlyByItsWrite : Prop :=
  (∀ s t : State, step s = .next t →
    t.dt.toNat ≤ s.dt.toNat ∨
    (MainLoopTurn s ∧ s.pc.toNat ≤ 4094 ∧ ∃ x, decode (wordAtPc s) = .instr (.ldDtV x) ∧ t.dt = s.reg x)) ∧
  (∀ (σ : Nat → State) (μ : Nat → Move), Execution σ μ → Fair σ μ →
    ∀ n, (∀ m, n ≤ m → ¬ (μ m = .mainLoop ∧ (σ m).pc.toNat ≤ 4094 ∧ ∃ x, decode (wordAtPc (σ m)) = .instr (.ldDtV x))) →
      ∃ m, n ≤ m ∧ ∀ k, m ≤ k → (σ k).dt = 0)

/-- R33: nothing but FX18 changes ST, ticks included, unless SOUND_TIMER_DECAYS. -/
def Obligations.SoundTimerChangesOnlyByItsWrite : Prop :=
  ∀ s t : State, s.cfg.soundTimerDecays = false → step s = .next t →
    t.st = s.st ∨ (MainLoopTurn s ∧ ∃ x, decode (wordAtPc s) = .instr (.ldStV x) ∧ t.st = s.reg x)

/-- R233, R236: the host's moves: it changes the key state and nothing else, or ends the run. -/
def Obligations.HostMovesChangeOnlyTheKeys : Prop :=
  (∀ (s : State) (k : KeySet), s.nextMove = .keys k →
    step s = .next { s with keys := k, schedule := s.laterMoves }) ∧
  (∀ s : State, s.nextMove = .quit → step s = .fault .hostQuit)

/-! ## Class 0, 1 and 2 -/

/-- R100. -/
def Obligations.ClsClearsEveryPixel : Prop :=
  Encodes 0x00E0#16 .cls ∧
  ∀ s : State, ∃ t, exec .cls s = .next t ∧ (∀ x y, ¬ Lit t x y) ∧ Frame { nothing with fb := true } s t

/-- R101: the popped address is used as it is; an empty stack is fatal. -/
def Obligations.RetPopsIntoThePc : Prop :=
  Encodes 0x00EE#16 .ret ∧
  (∀ (s : State) (below : List Word) (v : Word), s.stack = below ++ [v] →
    ∃ t, exec .ret s = .next t ∧ t.pc = v ∧ t.stack = below ∧ Frame { nothing with pc := true, stack := true } s t) ∧
  (∀ s : State, s.sp = 0 → exec .ret s = .next (haltedAt s ⟨.stackUnderflow, s.pc - 2, none, none⟩))

/-- R102. -/
def Obligations.JpSetsThePc : Prop :=
  ∀ (nnn : Addr12) (s : State), Encodes (wordNNN 0x1000#16 nnn) (.jp nnn) ∧
    ∃ t, exec (.jp nnn) s = .next t ∧ t.pc.toNat = nnn.toNat ∧ Frame onlyPc s t

/-- R103: the pushed value is `a + 2`; a full stack is fatal and stays as it is. -/
def Obligations.CallPushesTheReturnAddress : Prop :=
  ∀ (nnn : Addr12) (s : State), Encodes (wordNNN 0x2000#16 nnn) (.call nnn) ∧
    (s.sp < s.cfg.stackDepth → ∃ t, exec (.call nnn) s = .next t ∧ t.pc.toNat = nnn.toNat ∧
      t.stack = s.stack ++ [s.pc] ∧ t.sp = s.sp + 1 ∧ Frame { nothing with pc := true, stack := true } s t) ∧
    (s.sp = s.cfg.stackDepth → exec (.call nnn) s = .next (haltedAt s ⟨.stackOverflow, s.pc - 2, none, some s.sp⟩))

/-- R104: a call, then anything that leaves the stack as the call left it, then a return. -/
def Obligations.CallThenReturnComesBack : Prop :=
  ∀ (nnn : Addr12) (s : State), s.sp < s.cfg.stackDepth →
    ∃ t, exec (.call nnn) s = .next t ∧
      ∀ t' : State, t'.stack = t.stack → ∃ u, exec .ret t' = .next u ∧ u.pc = s.pc ∧ u.stack = s.stack

/-! ## Skips -/

/-- R120, R121. -/
def Obligations.ImmediateSkips : Prop :=
  ∀ (x : Reg) (nn : Byte) (s : State),
    Encodes (wordXNN 0x3000#16 x nn) (.seImm x nn) ∧ Encodes (wordXNN 0x4000#16 x nn) (.sneImm x nn) ∧
    (∃ t, exec (.seImm x nn) s = .next t ∧ t.pc = (if s.reg x = nn then s.pc + 2 else s.pc) ∧ Frame onlyPc s t) ∧
    (∃ t, exec (.sneImm x nn) s = .next t ∧ t.pc = (if s.reg x ≠ nn then s.pc + 2 else s.pc) ∧ Frame onlyPc s t)

/-- R122, R123. -/
def Obligations.RegisterSkips : Prop :=
  ∀ (x y : Reg) (s : State),
    Encodes (wordXY 0x5000#16 x y) (.seReg x y) ∧ Encodes (wordXY 0x9000#16 x y) (.sneReg x y) ∧
    (∃ t, exec (.seReg x y) s = .next t ∧ t.pc = (if s.reg x = s.reg y then s.pc + 2 else s.pc) ∧ Frame onlyPc s t) ∧
    (∃ t, exec (.sneReg x y) s = .next t ∧ t.pc = (if s.reg x ≠ s.reg y then s.pc + 2 else s.pc) ∧ Frame onlyPc s t)

/-- R170, R171, R172: the whole byte V[X] is compared with the key ids. -/
def Obligations.KeySkips : Prop :=
  ∀ (x : Reg) (s : State),
    Encodes (wordX 0xE09E#16 x) (.skp x) ∧ Encodes (wordX 0xE0A1#16 x) (.sknp x) ∧
    (∀ k : Fin 16, (s.reg x).toNat = k.val →
      (∃ t, exec (.skp x) s = .next t ∧ t.pc = (if s.keys[k.val] then s.pc + 2 else s.pc) ∧ Frame onlyPc s t) ∧
      (∃ t, exec (.sknp x) s = .next t ∧ t.pc = (if s.keys[k.val] then s.pc else s.pc + 2) ∧ Frame onlyPc s t)) ∧
    ((s.reg x).toNat > 15 →
      exec (.skp x) s = .next s ∧ (∃ t, exec (.sknp x) s = .next t ∧ t.pc = s.pc + 2 ∧ Frame onlyPc s t))

/-! ## Loads and the ALU -/

/-- R132, R133, R134: loads and the add without a flag; X = 0xF writes VF as an ordinary destination. -/
def Obligations.LoadsAndImmediateAdd : Prop :=
  ∀ (x y : Reg) (nn : Byte) (s : State),
    Encodes (wordXNN 0x6000#16 x nn) (.ldImm x nn) ∧ Encodes (wordXNN 0x7000#16 x nn) (.addImm x nn) ∧
    Encodes (wordXY 0x8000#16 x y) (.ldReg x y) ∧
    (∃ t, exec (.ldImm x nn) s = .next t ∧ t.reg x = nn ∧ Frame (onlyReg x) s t) ∧
    (∃ t, exec (.addImm x nn) s = .next t ∧ (t.reg x).toNat = ((s.reg x).toNat + nn.toNat) % 256 ∧
      Frame (onlyReg x) s t) ∧
    (∃ t, exec (.ldReg x y) s = .next t ∧ t.reg x = s.reg y ∧ Frame (onlyReg x) s t)

/-- R135, R136, R137, bit by bit: VF is not reset. -/
def Obligations.LogicalOperationsAreBitwise : Prop :=
  ∀ (x y : Reg) (s : State),
    Encodes (wordXY 0x8001#16 x y) (.orReg x y) ∧ Encodes (wordXY 0x8002#16 x y) (.andReg x y) ∧
    Encodes (wordXY 0x8003#16 x y) (.xorReg x y) ∧
    (∃ t, exec (.orReg x y) s = .next t ∧ Frame (onlyReg x) s t ∧
      ∀ k, (t.reg x).getLsbD k = ((s.reg x).getLsbD k || (s.reg y).getLsbD k)) ∧
    (∃ t, exec (.andReg x y) s = .next t ∧ Frame (onlyReg x) s t ∧
      ∀ k, (t.reg x).getLsbD k = ((s.reg x).getLsbD k && (s.reg y).getLsbD k)) ∧
    (∃ t, exec (.xorReg x y) s = .next t ∧ Frame (onlyReg x) s t ∧
      ∀ k, (t.reg x).getLsbD k = ((s.reg x).getLsbD k ^^ (s.reg y).getLsbD k))

/-- R138, R131: the sum mod 256 and the carry; VF is written last. -/
def Obligations.AddSetsTheCarry : Prop :=
  ∀ (x y : Reg) (s : State), Encodes (wordXY 0x8004#16 x y) (.addReg x y) ∧
    ∃ t, exec (.addReg x y) s = .next t ∧
      (x ≠ vf → (t.reg x).toNat = ((s.reg x).toNat + (s.reg y).toNat) % 256) ∧
      t.reg vf = (if (s.reg x).toNat + (s.reg y).toNat > 255 then 1 else 0) ∧ Frame (onlyRegAndVF x) s t

/-- R139, R141, R131: the differences mod 256 and the not-borrow; VF is written last. -/
def Obligations.SubtractionsSetNotBorrow : Prop :=
  ∀ (x y : Reg) (s : State),
    Encodes (wordXY 0x8005#16 x y) (.subReg x y) ∧ Encodes (wordXY 0x8007#16 x y) (.subn x y) ∧
    (∃ t, exec (.subReg x y) s = .next t ∧
      (x ≠ vf → (t.reg x).toNat = ((s.reg x).toNat + 256 - (s.reg y).toNat) % 256) ∧
      t.reg vf = (if (s.reg x).toNat ≥ (s.reg y).toNat then 1 else 0) ∧ Frame (onlyRegAndVF x) s t) ∧
    (∃ t, exec (.subn x y) s = .next t ∧
      (x ≠ vf → (t.reg x).toNat = ((s.reg y).toNat + 256 - (s.reg x).toNat) % 256) ∧
      t.reg vf = (if (s.reg y).toNat ≥ (s.reg x).toNat then 1 else 0) ∧ Frame (onlyRegAndVF x) s t)

/-- R140, R142, R131, R40: the shifts by one of V[X] or, with the quirk off, of V[Y]; VF takes the bit shifted out. -/
def Obligations.ShiftsMoveOneBitIntoVF : Prop :=
  ∀ (x y : Reg) (s : State) (v : Nat), v = (if s.cfg.shiftIgnoresY then (s.reg x).toNat else (s.reg y).toNat) →
    Encodes (wordXY 0x8006#16 x y) (.shr x y) ∧ Encodes (wordXY 0x800E#16 x y) (.shl x y) ∧
    (∃ t, exec (.shr x y) s = .next t ∧ (x ≠ vf → (t.reg x).toNat = v / 2) ∧
      (t.reg vf).toNat = v % 2 ∧ Frame (onlyRegAndVF x) s t) ∧
    (∃ t, exec (.shl x y) s = .next t ∧ (x ≠ vf → (t.reg x).toNat = 2 * v % 256) ∧
      (t.reg vf).toNat = v / 128 ∧ Frame (onlyRegAndVF x) s t)

/-! ## Index and draw -/

/-- R150. -/
def Obligations.LdISetsTheIndex : Prop :=
  ∀ (nnn : Addr12) (s : State), Encodes (wordNNN 0xA000#16 nnn) (.ldI nnn) ∧
    ∃ t, exec (.ldI nnn) s = .next t ∧ t.i.toNat = nnn.toNat ∧ Frame { nothing with i := true } s t

/-- R151, R153, R155: the drawn sprite is XORed into the framebuffer, clipped at the edges, and VF says whether a lit pixel
was turned off; a drawn row above address 4095 is fatal. -/
def Obligations.DrawXorsTheSpriteAndReportsCollision : Prop :=
  ∀ (x y : Reg) (n : Fin 16) (s : State),
    Encodes (wordXY 0xD000#16 x y ||| BitVec.ofNat 16 n.val) (.drw x y n.val) ∧
    (rowsOf s y n.val = 0 ∨ s.i.toNat + rowsOf s y n.val - 1 ≤ 4095 →
      ∃ t, exec (.drw x y n.val) s = .next t ∧
        (∀ px py, Lit t px py ↔
          (Lit s px py ∧ ¬ SpriteLit s ((s.reg x).toNat % 64) ((s.reg y).toNat % 32) (rowsOf s y n.val) px py) ∨
          (¬ Lit s px py ∧ SpriteLit s ((s.reg x).toNat % 64) ((s.reg y).toNat % 32) (rowsOf s y n.val) px py)) ∧
        ((t.reg vf = 1 ∧ ∃ px py, Lit s px py ∧
            SpriteLit s ((s.reg x).toNat % 64) ((s.reg y).toNat % 32) (rowsOf s y n.val) px py) ∨
          (t.reg vf = 0 ∧ ¬ ∃ px py, Lit s px py ∧
            SpriteLit s ((s.reg x).toNat % 64) ((s.reg y).toNat % 32) (rowsOf s y n.val) px py)) ∧
        Frame { nothing with reg := fun r => r == vf, fb := true } s t) ∧
    (0 < rowsOf s y n.val ∧ s.i.toNat + rowsOf s y n.val - 1 > 4095 →
      exec (.drw x y n.val) s =
        .next (haltedAt s ⟨.memReadOutOfRange, s.pc - 2, some (max s.i.toNat 4096), none⟩))

/-- R152: the whole range of the drawn rows is checked before any effect, a row clipped at the bottom is not checked, and no
byte outside the drawn rows is read: memories that agree on those rows draw the same. -/
def Obligations.DrawReadsAndChecksExactlyItsRows : Prop :=
  ∀ (x y : Reg) (n : Nat) (s : State),
    (0 < rowsOf s y n ∧ s.i.toNat + rowsOf s y n - 1 > 4095 → exec (.drw x y n) s =
      .next (haltedAt s ⟨.memReadOutOfRange, s.pc - 2, some (max s.i.toNat 4096), none⟩)) ∧
    (rowsOf s y n = 0 ∨ s.i.toNat + rowsOf s y n - 1 ≤ 4095 → ∃ t, exec (.drw x y n) s = .next t ∧ t.status = s.status ∧
      ∀ m : Memory, (∀ k, k < rowsOf s y n → (s.setMem m).readByte (s.i.toNat + k) = s.readByte (s.i.toNat + k)) →
        exec (.drw x y n) (s.setMem m) = .next (t.setMem m))

/-- R154: the same sprite drawn again at the same position restores the framebuffer. The second draw reports a collision
exactly when a drawn 1 of the sprite covers a pixel that was unlit before the first draw (log 14). -/
def Obligations.DrawingTwiceRestoresTheFramebuffer : Prop :=
  ∀ (x y : Reg) (n : Nat) (s : State), (rowsOf s y n = 0 ∨ s.i.toNat + rowsOf s y n - 1 ≤ 4095) →
    ∃ t, exec (.drw x y n) s = .next t ∧
      ∀ v : Vector Byte 16, v[x.val].toNat % 64 = (s.reg x).toNat % 64 → v[y.val].toNat % 32 = (s.reg y).toNat % 32 →
        ∃ u, exec (.drw x y n) (t.setV v) = .next u ∧ u.fb = s.fb ∧
          (u.reg vf = 1 ↔ ∃ px py, ¬ Lit s px py ∧
            SpriteLit s ((s.reg x).toNat % 64) ((s.reg y).toNat % 32) (rowsOf s y n) px py)

/-! ## Class F -/

/-- R180, R181, R182. -/
def Obligations.TimerMoves : Prop :=
  ∀ (x : Reg) (s : State),
    Encodes (wordX 0xF007#16 x) (.ldVDt x) ∧ Encodes (wordX 0xF015#16 x) (.ldDtV x) ∧
    Encodes (wordX 0xF018#16 x) (.ldStV x) ∧
    (∃ t, exec (.ldVDt x) s = .next t ∧ t.reg x = s.dt ∧ Frame (onlyReg x) s t) ∧
    (∃ t, exec (.ldDtV x) s = .next t ∧ t.dt = s.reg x ∧ Frame { nothing with dt := true } s t) ∧
    (∃ t, exec (.ldStV x) s = .next t ∧ t.st = s.reg x ∧ Frame { nothing with st := true } s t)

/-- R183, R30: I is kept mod 2^16 and not masked to 12 bits; VF is written last. -/
def Obligations.AddIFlagsTheOverflow : Prop :=
  ∀ (x : Reg) (s : State), Encodes (wordX 0xF01E#16 x) (.addI x) ∧
    ∃ t, exec (.addI x) s = .next t ∧ t.i.toNat = (s.i.toNat + (s.reg x).toNat) % 65536 ∧
      t.reg vf = (if s.i.toNat + (s.reg x).toNat > 0xFFF then 1 else 0) ∧
      Frame { nothing with reg := fun r => r == vf, i := true } s t

/-- R184: no key down, and the instruction is fetched again; else the lowest pressed id. -/
def Obligations.KeyWaitSpinsOrTakesTheLowestKey : Prop :=
  ∀ (x : Reg) (s : State), Encodes (wordX 0xF00A#16 x) (.ldVK x) ∧
    ((∀ k : Fin 16, s.keys[k.val] = false) →
      ∃ t, exec (.ldVK x) s = .next t ∧ t.pc = s.pc - 2 ∧ Frame onlyPc s t) ∧
    (∀ k : Fin 16, s.keys[k.val] = true → (∀ j : Fin 16, j < k → s.keys[j.val] = false) →
      ∃ t, exec (.ldVK x) s = .next t ∧ (t.reg x).toNat = k.val ∧ Frame (onlyReg x) s t)

/-- R185: bits 7..4 of V[X] are ignored. The parameters keep the bounds of R6. -/
def Obligations.LdFPointsAtTheGlyph : Prop :=
  ∀ (x : Reg) (s : State), s.cfg.wf = true → Encodes (wordX 0xF029#16 x) (.ldF x) ∧
    ∃ t, exec (.ldF x) s = .next t ∧ t.i.toNat = s.cfg.fontBase + 5 * ((s.reg x).toNat % 16) ∧
      Frame { nothing with i := true } s t

/-- R41, R185: the five bytes FX29 points at are the glyph of the low hex digit, for every byte in V[X], while the font area
reads as FONT_DATA, as it does after every boot. -/
def Obligations.GlyphBytesStandWhereLdFPoints : Prop :=
  (∀ (x : Reg) (s : State), s.cfg.wf = true →
    (∀ k, k < 80 → s.cfg.fontData[k]? = some (s.readByte (s.cfg.fontBase + k))) →
    ∃ t, exec (.ldF x) s = .next t ∧ ∀ row : Fin 5,
      s.cfg.fontData[5 * ((s.reg x).toNat % 16) + row.val]? = some (t.readByte (t.i.toNat + row.val))) ∧
  (∀ (hw : Config) (image : List Byte) (q : QuirkConfig) (s : State) (x : Reg) (b : Byte),
    hw.wf = true → boot hw (some image) (some q) = .started s →
    ∃ t, exec (.ldF x) (s.setReg x b) = .next t ∧ ∀ row : Fin 5,
      hw.fontData[5 * (b.toNat % 16) + row.val]? = some (t.readByte (t.i.toNat + row.val)))

/-- R186: the decimal digits at I, I+1, I+2, or a fatal error with nothing written. -/
def Obligations.LdBStoresTheDecimalDigits : Prop :=
  ∀ (x : Reg) (s : State), Encodes (wordX 0xF033#16 x) (.ldB x) ∧
    (s.i.toNat + 2 ≤ 4095 → ∃ t, exec (.ldB x) s = .next t ∧
      (t.readByte s.i.toNat).toNat = (s.reg x).toNat / 100 ∧
      (t.readByte (s.i.toNat + 1)).toNat = (s.reg x).toNat / 10 % 10 ∧
      (t.readByte (s.i.toNat + 2)).toNat = (s.reg x).toNat % 10 ∧
      Frame { nothing with byte := fun a => decide (s.i.toNat ≤ a ∧ a ≤ s.i.toNat + 2) } s t) ∧
    (s.i.toNat + 2 > 4095 → exec (.ldB x) s =
      .next (haltedAt s ⟨.memWriteOutOfRange, s.pc - 2, some (max s.i.toNat 4096), none⟩))

/-- R187: V0 to VX at I to I+X, or a fatal error with nothing written. -/
def Obligations.BlockStoreWritesTheRegisters : Prop :=
  ∀ (x : Reg) (s : State), Encodes (wordX 0xF055#16 x) (.ldMemV x) ∧
    (s.i.toNat + x.val ≤ 4095 → ∃ t, exec (.ldMemV x) s = .next t ∧
      (∀ r, r ≤ x → t.readByte (s.i.toNat + r.val) = s.reg r) ∧
      Frame { nothing with byte := fun a => decide (s.i.toNat ≤ a ∧ a ≤ s.i.toNat + x.val) } s t) ∧
    (s.i.toNat + x.val > 4095 → exec (.ldMemV x) s =
      .next (haltedAt s ⟨.memWriteOutOfRange, s.pc - 2, some (max s.i.toNat 4096), none⟩))

/-- R188: V0 to VX from I to I+X, or a fatal error with no register written. -/
def Obligations.BlockLoadReadsTheRegisters : Prop :=
  ∀ (x : Reg) (s : State), Encodes (wordX 0xF065#16 x) (.ldVMem x) ∧
    (s.i.toNat + x.val ≤ 4095 → ∃ t, exec (.ldVMem x) s = .next t ∧
      (∀ r, r ≤ x → t.reg r = s.readByte (s.i.toNat + r.val)) ∧
      Frame { nothing with reg := fun r => decide (r ≤ x) } s t) ∧
    (s.i.toNat + x.val > 4095 → exec (.ldVMem x) s =
      .next (haltedAt s ⟨.memReadOutOfRange, s.pc - 2, some (max s.i.toNat 4096), none⟩))

/-! ## The end of a run -/

/-- R89, R240, R259: at a jump to itself the core keeps fetching the jump for ever, whatever is scheduled short of the host's
quit: the machine does not stop there, and only the timers, the keys and the schedule change. Every endless run of `step`, from
whatever schedule, is a fair execution (that the empty schedule stands for a fair order is the model's, log 3). -/
def Obligations.JumpToSelfRunsForEver : Prop :=
  (∀ (s : State) (e : Addr12), s.status = .running → s.atEnd e → .quit ∉ s.schedule →
    ∀ k, ∃ t, Steps k s t ∧ t.atEnd e ∧ t = { s with dt := t.dt, st := t.st, keys := t.keys, schedule := t.schedule }) ∧
  (∀ σ : Nat → State, EndlessRun σ → Execution σ (fun n => (σ n).nextMove) ∧ Fair σ (fun n => (σ n).nextMove))
end

