-- ==== Sys2Proof/Laws/State.lean ====
section
/-! SUPPORT. One lemma per field per update of State, each true by rfl; no later proof unfolds a record update. -/

namespace Sys2Proof.Machine

variable (s : State)

@[simp] theorem State.setV_v (a : Vector Byte 16) : (s.setV a).v = a := rfl
@[simp] theorem State.setV_pc (a : Vector Byte 16) : (s.setV a).pc = s.pc := rfl
@[simp] theorem State.setV_i (a : Vector Byte 16) : (s.setV a).i = s.i := rfl
@[simp] theorem State.setV_dt (a : Vector Byte 16) : (s.setV a).dt = s.dt := rfl
@[simp] theorem State.setV_st (a : Vector Byte 16) : (s.setV a).st = s.st := rfl
@[simp] theorem State.setV_stack (a : Vector Byte 16) : (s.setV a).stack = s.stack := rfl
@[simp] theorem State.setV_fb (a : Vector Byte 16) : (s.setV a).fb = s.fb := rfl
@[simp] theorem State.setV_mem (a : Vector Byte 16) : (s.setV a).mem = s.mem := rfl
@[simp] theorem State.setV_keys (a : Vector Byte 16) : (s.setV a).keys = s.keys := rfl
@[simp] theorem State.setV_status (a : Vector Byte 16) : (s.setV a).status = s.status := rfl
@[simp] theorem State.setV_cfg (a : Vector Byte 16) : (s.setV a).cfg = s.cfg := rfl
@[simp] theorem State.setV_schedule (a : Vector Byte 16) : (s.setV a).schedule = s.schedule := rfl
@[simp] theorem State.setV_log (a : Vector Byte 16) : (s.setV a).log = s.log := rfl

@[simp] theorem State.setPc_v (a : Word) : (s.setPc a).v = s.v := rfl
@[simp] theorem State.setPc_pc (a : Word) : (s.setPc a).pc = a := rfl
@[simp] theorem State.setPc_i (a : Word) : (s.setPc a).i = s.i := rfl
@[simp] theorem State.setPc_dt (a : Word) : (s.setPc a).dt = s.dt := rfl
@[simp] theorem State.setPc_st (a : Word) : (s.setPc a).st = s.st := rfl
@[simp] theorem State.setPc_stack (a : Word) : (s.setPc a).stack = s.stack := rfl
@[simp] theorem State.setPc_fb (a : Word) : (s.setPc a).fb = s.fb := rfl
@[simp] theorem State.setPc_mem (a : Word) : (s.setPc a).mem = s.mem := rfl
@[simp] theorem State.setPc_keys (a : Word) : (s.setPc a).keys = s.keys := rfl
@[simp] theorem State.setPc_status (a : Word) : (s.setPc a).status = s.status := rfl
@[simp] theorem State.setPc_cfg (a : Word) : (s.setPc a).cfg = s.cfg := rfl
@[simp] theorem State.setPc_schedule (a : Word) : (s.setPc a).schedule = s.schedule := rfl
@[simp] theorem State.setPc_log (a : Word) : (s.setPc a).log = s.log := rfl

@[simp] theorem State.setI_v (a : Word) : (s.setI a).v = s.v := rfl
@[simp] theorem State.setI_pc (a : Word) : (s.setI a).pc = s.pc := rfl
@[simp] theorem State.setI_i (a : Word) : (s.setI a).i = a := rfl
@[simp] theorem State.setI_dt (a : Word) : (s.setI a).dt = s.dt := rfl
@[simp] theorem State.setI_st (a : Word) : (s.setI a).st = s.st := rfl
@[simp] theorem State.setI_stack (a : Word) : (s.setI a).stack = s.stack := rfl
@[simp] theorem State.setI_fb (a : Word) : (s.setI a).fb = s.fb := rfl
@[simp] theorem State.setI_mem (a : Word) : (s.setI a).mem = s.mem := rfl
@[simp] theorem State.setI_keys (a : Word) : (s.setI a).keys = s.keys := rfl
@[simp] theorem State.setI_status (a : Word) : (s.setI a).status = s.status := rfl
@[simp] theorem State.setI_cfg (a : Word) : (s.setI a).cfg = s.cfg := rfl
@[simp] theorem State.setI_schedule (a : Word) : (s.setI a).schedule = s.schedule := rfl
@[simp] theorem State.setI_log (a : Word) : (s.setI a).log = s.log := rfl

@[simp] theorem State.setDt_v (a : Byte) : (s.setDt a).v = s.v := rfl
@[simp] theorem State.setDt_pc (a : Byte) : (s.setDt a).pc = s.pc := rfl
@[simp] theorem State.setDt_i (a : Byte) : (s.setDt a).i = s.i := rfl
@[simp] theorem State.setDt_dt (a : Byte) : (s.setDt a).dt = a := rfl
@[simp] theorem State.setDt_st (a : Byte) : (s.setDt a).st = s.st := rfl
@[simp] theorem State.setDt_stack (a : Byte) : (s.setDt a).stack = s.stack := rfl
@[simp] theorem State.setDt_fb (a : Byte) : (s.setDt a).fb = s.fb := rfl
@[simp] theorem State.setDt_mem (a : Byte) : (s.setDt a).mem = s.mem := rfl
@[simp] theorem State.setDt_keys (a : Byte) : (s.setDt a).keys = s.keys := rfl
@[simp] theorem State.setDt_status (a : Byte) : (s.setDt a).status = s.status := rfl
@[simp] theorem State.setDt_cfg (a : Byte) : (s.setDt a).cfg = s.cfg := rfl
@[simp] theorem State.setDt_schedule (a : Byte) : (s.setDt a).schedule = s.schedule := rfl
@[simp] theorem State.setDt_log (a : Byte) : (s.setDt a).log = s.log := rfl

@[simp] theorem State.setSt_v (a : Byte) : (s.setSt a).v = s.v := rfl
@[simp] theorem State.setSt_pc (a : Byte) : (s.setSt a).pc = s.pc := rfl
@[simp] theorem State.setSt_i (a : Byte) : (s.setSt a).i = s.i := rfl
@[simp] theorem State.setSt_dt (a : Byte) : (s.setSt a).dt = s.dt := rfl
@[simp] theorem State.setSt_st (a : Byte) : (s.setSt a).st = a := rfl
@[simp] theorem State.setSt_stack (a : Byte) : (s.setSt a).stack = s.stack := rfl
@[simp] theorem State.setSt_fb (a : Byte) : (s.setSt a).fb = s.fb := rfl
@[simp] theorem State.setSt_mem (a : Byte) : (s.setSt a).mem = s.mem := rfl
@[simp] theorem State.setSt_keys (a : Byte) : (s.setSt a).keys = s.keys := rfl
@[simp] theorem State.setSt_status (a : Byte) : (s.setSt a).status = s.status := rfl
@[simp] theorem State.setSt_cfg (a : Byte) : (s.setSt a).cfg = s.cfg := rfl
@[simp] theorem State.setSt_schedule (a : Byte) : (s.setSt a).schedule = s.schedule := rfl
@[simp] theorem State.setSt_log (a : Byte) : (s.setSt a).log = s.log := rfl

@[simp] theorem State.setStack_v (a : List Word) : (s.setStack a).v = s.v := rfl
@[simp] theorem State.setStack_pc (a : List Word) : (s.setStack a).pc = s.pc := rfl
@[simp] theorem State.setStack_i (a : List Word) : (s.setStack a).i = s.i := rfl
@[simp] theorem State.setStack_dt (a : List Word) : (s.setStack a).dt = s.dt := rfl
@[simp] theorem State.setStack_st (a : List Word) : (s.setStack a).st = s.st := rfl
@[simp] theorem State.setStack_stack (a : List Word) : (s.setStack a).stack = a := rfl
@[simp] theorem State.setStack_fb (a : List Word) : (s.setStack a).fb = s.fb := rfl
@[simp] theorem State.setStack_mem (a : List Word) : (s.setStack a).mem = s.mem := rfl
@[simp] theorem State.setStack_keys (a : List Word) : (s.setStack a).keys = s.keys := rfl
@[simp] theorem State.setStack_status (a : List Word) : (s.setStack a).status = s.status := rfl
@[simp] theorem State.setStack_cfg (a : List Word) : (s.setStack a).cfg = s.cfg := rfl
@[simp] theorem State.setStack_schedule (a : List Word) : (s.setStack a).schedule = s.schedule := rfl
@[simp] theorem State.setStack_log (a : List Word) : (s.setStack a).log = s.log := rfl

@[simp] theorem State.setFb_v (a : Framebuffer) : (s.setFb a).v = s.v := rfl
@[simp] theorem State.setFb_pc (a : Framebuffer) : (s.setFb a).pc = s.pc := rfl
@[simp] theorem State.setFb_i (a : Framebuffer) : (s.setFb a).i = s.i := rfl
@[simp] theorem State.setFb_dt (a : Framebuffer) : (s.setFb a).dt = s.dt := rfl
@[simp] theorem State.setFb_st (a : Framebuffer) : (s.setFb a).st = s.st := rfl
@[simp] theorem State.setFb_stack (a : Framebuffer) : (s.setFb a).stack = s.stack := rfl
@[simp] theorem State.setFb_fb (a : Framebuffer) : (s.setFb a).fb = a := rfl
@[simp] theorem State.setFb_mem (a : Framebuffer) : (s.setFb a).mem = s.mem := rfl
@[simp] theorem State.setFb_keys (a : Framebuffer) : (s.setFb a).keys = s.keys := rfl
@[simp] theorem State.setFb_status (a : Framebuffer) : (s.setFb a).status = s.status := rfl
@[simp] theorem State.setFb_cfg (a : Framebuffer) : (s.setFb a).cfg = s.cfg := rfl
@[simp] theorem State.setFb_schedule (a : Framebuffer) : (s.setFb a).schedule = s.schedule := rfl
@[simp] theorem State.setFb_log (a : Framebuffer) : (s.setFb a).log = s.log := rfl

@[simp] theorem State.setMem_v (a : Memory) : (s.setMem a).v = s.v := rfl
@[simp] theorem State.setMem_pc (a : Memory) : (s.setMem a).pc = s.pc := rfl
@[simp] theorem State.setMem_i (a : Memory) : (s.setMem a).i = s.i := rfl
@[simp] theorem State.setMem_dt (a : Memory) : (s.setMem a).dt = s.dt := rfl
@[simp] theorem State.setMem_st (a : Memory) : (s.setMem a).st = s.st := rfl
@[simp] theorem State.setMem_stack (a : Memory) : (s.setMem a).stack = s.stack := rfl
@[simp] theorem State.setMem_fb (a : Memory) : (s.setMem a).fb = s.fb := rfl
@[simp] theorem State.setMem_mem (a : Memory) : (s.setMem a).mem = a := rfl
@[simp] theorem State.setMem_keys (a : Memory) : (s.setMem a).keys = s.keys := rfl
@[simp] theorem State.setMem_status (a : Memory) : (s.setMem a).status = s.status := rfl
@[simp] theorem State.setMem_cfg (a : Memory) : (s.setMem a).cfg = s.cfg := rfl
@[simp] theorem State.setMem_schedule (a : Memory) : (s.setMem a).schedule = s.schedule := rfl
@[simp] theorem State.setMem_log (a : Memory) : (s.setMem a).log = s.log := rfl

@[simp] theorem State.setKeys_v (a : KeySet) : (s.setKeys a).v = s.v := rfl
@[simp] theorem State.setKeys_pc (a : KeySet) : (s.setKeys a).pc = s.pc := rfl
@[simp] theorem State.setKeys_i (a : KeySet) : (s.setKeys a).i = s.i := rfl
@[simp] theorem State.setKeys_dt (a : KeySet) : (s.setKeys a).dt = s.dt := rfl
@[simp] theorem State.setKeys_st (a : KeySet) : (s.setKeys a).st = s.st := rfl
@[simp] theorem State.setKeys_stack (a : KeySet) : (s.setKeys a).stack = s.stack := rfl
@[simp] theorem State.setKeys_fb (a : KeySet) : (s.setKeys a).fb = s.fb := rfl
@[simp] theorem State.setKeys_mem (a : KeySet) : (s.setKeys a).mem = s.mem := rfl
@[simp] theorem State.setKeys_keys (a : KeySet) : (s.setKeys a).keys = a := rfl
@[simp] theorem State.setKeys_status (a : KeySet) : (s.setKeys a).status = s.status := rfl
@[simp] theorem State.setKeys_cfg (a : KeySet) : (s.setKeys a).cfg = s.cfg := rfl
@[simp] theorem State.setKeys_schedule (a : KeySet) : (s.setKeys a).schedule = s.schedule := rfl
@[simp] theorem State.setKeys_log (a : KeySet) : (s.setKeys a).log = s.log := rfl

@[simp] theorem State.setStatus_v (a : Status) : (s.setStatus a).v = s.v := rfl
@[simp] theorem State.setStatus_pc (a : Status) : (s.setStatus a).pc = s.pc := rfl
@[simp] theorem State.setStatus_i (a : Status) : (s.setStatus a).i = s.i := rfl
@[simp] theorem State.setStatus_dt (a : Status) : (s.setStatus a).dt = s.dt := rfl
@[simp] theorem State.setStatus_st (a : Status) : (s.setStatus a).st = s.st := rfl
@[simp] theorem State.setStatus_stack (a : Status) : (s.setStatus a).stack = s.stack := rfl
@[simp] theorem State.setStatus_fb (a : Status) : (s.setStatus a).fb = s.fb := rfl
@[simp] theorem State.setStatus_mem (a : Status) : (s.setStatus a).mem = s.mem := rfl
@[simp] theorem State.setStatus_keys (a : Status) : (s.setStatus a).keys = s.keys := rfl
@[simp] theorem State.setStatus_status (a : Status) : (s.setStatus a).status = a := rfl
@[simp] theorem State.setStatus_cfg (a : Status) : (s.setStatus a).cfg = s.cfg := rfl
@[simp] theorem State.setStatus_schedule (a : Status) : (s.setStatus a).schedule = s.schedule := rfl
@[simp] theorem State.setStatus_log (a : Status) : (s.setStatus a).log = s.log := rfl

@[simp] theorem State.setSchedule_v (a : List Move) : (s.setSchedule a).v = s.v := rfl
@[simp] theorem State.setSchedule_pc (a : List Move) : (s.setSchedule a).pc = s.pc := rfl
@[simp] theorem State.setSchedule_i (a : List Move) : (s.setSchedule a).i = s.i := rfl
@[simp] theorem State.setSchedule_dt (a : List Move) : (s.setSchedule a).dt = s.dt := rfl
@[simp] theorem State.setSchedule_st (a : List Move) : (s.setSchedule a).st = s.st := rfl
@[simp] theorem State.setSchedule_stack (a : List Move) : (s.setSchedule a).stack = s.stack := rfl
@[simp] theorem State.setSchedule_fb (a : List Move) : (s.setSchedule a).fb = s.fb := rfl
@[simp] theorem State.setSchedule_mem (a : List Move) : (s.setSchedule a).mem = s.mem := rfl
@[simp] theorem State.setSchedule_keys (a : List Move) : (s.setSchedule a).keys = s.keys := rfl
@[simp] theorem State.setSchedule_status (a : List Move) : (s.setSchedule a).status = s.status := rfl
@[simp] theorem State.setSchedule_cfg (a : List Move) : (s.setSchedule a).cfg = s.cfg := rfl
@[simp] theorem State.setSchedule_schedule (a : List Move) : (s.setSchedule a).schedule = a := rfl
@[simp] theorem State.setSchedule_log (a : List Move) : (s.setSchedule a).log = s.log := rfl

@[simp] theorem State.report_v (e : LogEvent) : (s.report e).v = s.v := rfl
@[simp] theorem State.report_pc (e : LogEvent) : (s.report e).pc = s.pc := rfl
@[simp] theorem State.report_i (e : LogEvent) : (s.report e).i = s.i := rfl
@[simp] theorem State.report_dt (e : LogEvent) : (s.report e).dt = s.dt := rfl
@[simp] theorem State.report_st (e : LogEvent) : (s.report e).st = s.st := rfl
@[simp] theorem State.report_stack (e : LogEvent) : (s.report e).stack = s.stack := rfl
@[simp] theorem State.report_fb (e : LogEvent) : (s.report e).fb = s.fb := rfl
@[simp] theorem State.report_mem (e : LogEvent) : (s.report e).mem = s.mem := rfl
@[simp] theorem State.report_keys (e : LogEvent) : (s.report e).keys = s.keys := rfl
@[simp] theorem State.report_status (e : LogEvent) : (s.report e).status = s.status := rfl
@[simp] theorem State.report_cfg (e : LogEvent) : (s.report e).cfg = s.cfg := rfl
@[simp] theorem State.report_schedule (e : LogEvent) : (s.report e).schedule = s.schedule := rfl
@[simp] theorem State.report_log (e : LogEvent) : (s.report e).log = s.log ++ [e] := rfl

@[simp] theorem State.setReg_v (r : Reg) (b : Byte) : (s.setReg r b).v = s.v.set r.val b := rfl
@[simp] theorem State.setReg_pc (r : Reg) (b : Byte) : (s.setReg r b).pc = s.pc := rfl
@[simp] theorem State.setReg_i (r : Reg) (b : Byte) : (s.setReg r b).i = s.i := rfl
@[simp] theorem State.setReg_dt (r : Reg) (b : Byte) : (s.setReg r b).dt = s.dt := rfl
@[simp] theorem State.setReg_st (r : Reg) (b : Byte) : (s.setReg r b).st = s.st := rfl
@[simp] theorem State.setReg_stack (r : Reg) (b : Byte) : (s.setReg r b).stack = s.stack := rfl
@[simp] theorem State.setReg_fb (r : Reg) (b : Byte) : (s.setReg r b).fb = s.fb := rfl
@[simp] theorem State.setReg_mem (r : Reg) (b : Byte) : (s.setReg r b).mem = s.mem := rfl
@[simp] theorem State.setReg_keys (r : Reg) (b : Byte) : (s.setReg r b).keys = s.keys := rfl
@[simp] theorem State.setReg_status (r : Reg) (b : Byte) : (s.setReg r b).status = s.status := rfl
@[simp] theorem State.setReg_cfg (r : Reg) (b : Byte) : (s.setReg r b).cfg = s.cfg := rfl
@[simp] theorem State.setReg_schedule (r : Reg) (b : Byte) : (s.setReg r b).schedule = s.schedule := rfl
@[simp] theorem State.setReg_log (r : Reg) (b : Byte) : (s.setReg r b).log = s.log := rfl

/-! A field read after an update of the same field is the value written; two updates of one field keep the later. -/

@[simp] theorem State.setV_setV (a b : Vector Byte 16) : (s.setV a).setV b = s.setV b := rfl
@[simp] theorem State.setV_self : s.setV s.v = s := rfl
@[simp] theorem State.setPc_setPc (a b : Word) : (s.setPc a).setPc b = s.setPc b := rfl
@[simp] theorem State.setPc_self : s.setPc s.pc = s := rfl
@[simp] theorem State.setI_setI (a b : Word) : (s.setI a).setI b = s.setI b := rfl
@[simp] theorem State.setI_self : s.setI s.i = s := rfl
@[simp] theorem State.setDt_setDt (a b : Byte) : (s.setDt a).setDt b = s.setDt b := rfl
@[simp] theorem State.setDt_self : s.setDt s.dt = s := rfl
@[simp] theorem State.setSt_setSt (a b : Byte) : (s.setSt a).setSt b = s.setSt b := rfl
@[simp] theorem State.setSt_self : s.setSt s.st = s := rfl
@[simp] theorem State.setStack_setStack (a b : List Word) : (s.setStack a).setStack b = s.setStack b := rfl
@[simp] theorem State.setStack_self : s.setStack s.stack = s := rfl
@[simp] theorem State.setFb_setFb (a b : Framebuffer) : (s.setFb a).setFb b = s.setFb b := rfl
@[simp] theorem State.setFb_self : s.setFb s.fb = s := rfl
@[simp] theorem State.setMem_setMem (a b : Memory) : (s.setMem a).setMem b = s.setMem b := rfl
@[simp] theorem State.setMem_self : s.setMem s.mem = s := rfl
@[simp] theorem State.setKeys_setKeys (a b : KeySet) : (s.setKeys a).setKeys b = s.setKeys b := rfl
@[simp] theorem State.setKeys_self : s.setKeys s.keys = s := rfl
@[simp] theorem State.setStatus_setStatus (a b : Status) : (s.setStatus a).setStatus b = s.setStatus b := rfl
@[simp] theorem State.setStatus_self : s.setStatus s.status = s := rfl
@[simp] theorem State.setSchedule_setSchedule (a b : List Move) : (s.setSchedule a).setSchedule b = s.setSchedule b := rfl
@[simp] theorem State.setSchedule_self : s.setSchedule s.schedule = s := rfl

/-! A register read and a byte read see only their own fields. -/

@[simp] theorem State.setPc_reg (a : Word) (r : Reg) : (s.setPc a).reg r = s.reg r := rfl
@[simp] theorem State.setI_reg (a : Word) (r : Reg) : (s.setI a).reg r = s.reg r := rfl
@[simp] theorem State.setDt_reg (a : Byte) (r : Reg) : (s.setDt a).reg r = s.reg r := rfl
@[simp] theorem State.setSt_reg (a : Byte) (r : Reg) : (s.setSt a).reg r = s.reg r := rfl
@[simp] theorem State.setStack_reg (a : List Word) (r : Reg) : (s.setStack a).reg r = s.reg r := rfl
@[simp] theorem State.setFb_reg (a : Framebuffer) (r : Reg) : (s.setFb a).reg r = s.reg r := rfl
@[simp] theorem State.setMem_reg (a : Memory) (r : Reg) : (s.setMem a).reg r = s.reg r := rfl
@[simp] theorem State.setKeys_reg (a : KeySet) (r : Reg) : (s.setKeys a).reg r = s.reg r := rfl
@[simp] theorem State.setStatus_reg (a : Status) (r : Reg) : (s.setStatus a).reg r = s.reg r := rfl
@[simp] theorem State.setSchedule_reg (a : List Move) (r : Reg) : (s.setSchedule a).reg r = s.reg r := rfl
@[simp] theorem State.report_reg (a : LogEvent) (r : Reg) : (s.report a).reg r = s.reg r := rfl

@[simp] theorem State.setV_readByte (a : Vector Byte 16) (x : Nat) : (s.setV a).readByte x = s.readByte x := rfl
@[simp] theorem State.setPc_readByte (a : Word) (x : Nat) : (s.setPc a).readByte x = s.readByte x := rfl
@[simp] theorem State.setI_readByte (a : Word) (x : Nat) : (s.setI a).readByte x = s.readByte x := rfl
@[simp] theorem State.setDt_readByte (a : Byte) (x : Nat) : (s.setDt a).readByte x = s.readByte x := rfl
@[simp] theorem State.setSt_readByte (a : Byte) (x : Nat) : (s.setSt a).readByte x = s.readByte x := rfl
@[simp] theorem State.setStack_readByte (a : List Word) (x : Nat) : (s.setStack a).readByte x = s.readByte x := rfl
@[simp] theorem State.setFb_readByte (a : Framebuffer) (x : Nat) : (s.setFb a).readByte x = s.readByte x := rfl
@[simp] theorem State.setKeys_readByte (a : KeySet) (x : Nat) : (s.setKeys a).readByte x = s.readByte x := rfl
@[simp] theorem State.setStatus_readByte (a : Status) (x : Nat) : (s.setStatus a).readByte x = s.readByte x := rfl
@[simp] theorem State.setSchedule_readByte (a : List Move) (x : Nat) : (s.setSchedule a).readByte x = s.readByte x := rfl
@[simp] theorem State.report_readByte (a : LogEvent) (x : Nat) : (s.report a).readByte x = s.readByte x := rfl
@[simp] theorem State.setReg_readByte (r : Reg) (b : Byte) (x : Nat) : (s.setReg r b).readByte x = s.readByte x := rfl

/-- Two states with equal fields are equal. -/
theorem State.ext_fields {s t : State} (hv : s.v = t.v) (hpc : s.pc = t.pc) (hi : s.i = t.i) (hdt : s.dt = t.dt)
    (hst : s.st = t.st) (hstack : s.stack = t.stack) (hfb : s.fb = t.fb) (hmem : s.mem = t.mem) (hkeys : s.keys = t.keys)
    (hstatus : s.status = t.status) (hcfg : s.cfg = t.cfg) (hsched : s.schedule = t.schedule) (hlog : s.log = t.log) :
    s = t := by
  cases s
  cases t
  simp_all

end Sys2Proof.Machine
end

