-- ==== Sys2Proof/Laws/Memory.lean ====
section
/-! SUPPORT. Memory: a read after a write, and every write keeps the canonical form (spec/20_memory.md R50 to R52). -/

namespace Sys2Proof.Machine

theorem Memory.lookup_filter_ne (m : Memory) (a x : Nat) :
    Memory.lookup x (m.filter fun c => c.1 != a) = if x = a then none else Memory.lookup x m := by
  induction m with
  | nil => simp [Memory.lookup]
  | cons c rest ih =>
    obtain ⟨k, b⟩ := c
    by_cases hk : k = a <;> by_cases hx : x = a <;> simp_all [Memory.lookup]
    · intro h; exact absurd h.symm hk

theorem Memory.lookup_insert (m : List Host.Cell) (a x : Nat) (b : Byte) (h : ∀ c ∈ m, c.1 ≠ a) :
    Memory.lookup x (Memory.insert a b m) = if x = a then some b else Memory.lookup x m := by
  induction m with
  | nil => simp [Memory.lookup, Memory.insert]
  | cons c rest ih =>
    obtain ⟨k, v⟩ := c
    have hk : k ≠ a := h (k, v) (by simp)
    have := ih fun c hc => h c (by simp [hc])
    by_cases hx : x = a <;> simp only [Memory.insert] <;> split <;> simp_all [Memory.lookup, eq_comm]

/-- A read after a write: the byte written at its address, the old byte everywhere else. -/
theorem Memory.read_write (cfg : Config) (m : Memory) (a x : Nat) (b : Byte) :
    Memory.read cfg (Memory.write cfg m a b) x = if x = a then b else Memory.read cfg m x := by
  have hne : ∀ c ∈ m.filter (fun c => c.1 != a), c.1 ≠ a := by simp
  by_cases hx : x = a <;> simp only [Memory.read, Memory.write] <;> split <;>
    simp_all [Memory.lookup_filter_ne, Memory.lookup_insert]

theorem Memory.read_writeBlock (cfg : Config) (bs : List Byte) (m : Memory) (a x : Nat) :
    Memory.read cfg (Memory.writeBlock cfg a bs m) x =
      if h : a ≤ x ∧ x < a + bs.length then bs[x - a]'(by omega) else Memory.read cfg m x := by
  induction bs generalizing m a with
  | nil => simp [Memory.writeBlock]
  | cons b bs ih =>
    simp only [Memory.writeBlock, ih, Memory.read_write, List.length_cons]
    by_cases h1 : x = a
    · subst h1
      simp
    · by_cases h2 : a + 1 ≤ x ∧ x < a + 1 + bs.length
      · rw [dif_pos h2, dif_pos (by omega)]
        simp [show x - a = (x - (a + 1)) + 1 by omega]
      · rw [dif_neg h2, if_neg h1, dif_neg (by omega)]

theorem Memory.insert_mem (m : List Host.Cell) (a : Nat) (b : Byte) (c : Host.Cell) :
    c ∈ Memory.insert a b m ↔ c = (a, b) ∨ c ∈ m := by
  induction m with
  | nil => simp [Memory.insert]
  | cons d rest ih =>
    obtain ⟨k, v⟩ := d
    simp only [Memory.insert]
    split <;> simp [ih] ; tauto

theorem Memory.insert_sorted (m : List Host.Cell) (a : Nat) (b : Byte) (hs : m.Pairwise fun c d => c.1 < d.1)
    (h : ∀ c ∈ m, c.1 ≠ a) : (Memory.insert a b m).Pairwise fun c d => c.1 < d.1 := by
  induction m with
  | nil => simp [Memory.insert]
  | cons d rest ih =>
    obtain ⟨k, v⟩ := d
    rw [List.pairwise_cons] at hs
    have hk : k ≠ a := h (k, v) (by simp)
    simp only [Memory.insert]
    split
    · rename_i hlt
      refine List.pairwise_cons.2 ⟨?_, List.pairwise_cons.2 hs⟩
      intro c hc
      rcases List.mem_cons.1 hc with rfl | hc
      · exact hlt
      · exact Nat.lt_trans hlt (hs.1 c hc)
    · refine List.pairwise_cons.2 ⟨?_, ih hs.2 fun c hc => h c (by simp [hc])⟩
      intro c hc
      rcases (Memory.insert_mem rest a b c).1 hc with rfl | hc
      · simp only; omega
      · exact hs.1 c hc

theorem Memory.wf_write (cfg : Config) (m : Memory) (a : Nat) (b : Byte) (ha : a ≤ 4095) (h : Memory.wf cfg m) :
    Memory.wf cfg (Memory.write cfg m a b) := by
  have hf : Memory.wf cfg (m.filter fun c => c.1 != a) :=
    ⟨h.1.filter _, fun c hc => h.2 c (List.mem_of_mem_filter hc)⟩
  unfold Memory.write
  split
  · exact hf
  · rename_i hb
    refine ⟨Memory.insert_sorted _ _ _ hf.1 (by simp), fun c hc => ?_⟩
    rcases (Memory.insert_mem _ a b c).1 hc with rfl | hc
    · exact ⟨ha, hb⟩
    · exact hf.2 c hc

theorem Memory.wf_writeBlock (cfg : Config) (bs : List Byte) (m : Memory) (a : Nat) (ha : a + bs.length ≤ 4096)
    (h : Memory.wf cfg m) : Memory.wf cfg (Memory.writeBlock cfg a bs m) := by
  induction bs generalizing m a with
  | nil => exact h
  | cons b bs ih =>
    simp only [List.length_cons] at ha
    exact ih _ _ (by omega) (Memory.wf_write cfg m a b (by omega) h)

theorem Memory.lookup_some_mem (m : Memory) (a : Nat) (b : Byte) (h : Memory.lookup a m = some b) : (a, b) ∈ m := by
  induction m with
  | nil => simp [Memory.lookup] at h
  | cons c rest ih =>
    obtain ⟨k, v⟩ := c
    simp only [Memory.lookup] at h
    split at h
    · simp_all
    · simp [ih h]

theorem Memory.lookup_of_mem (m : Memory) (hs : m.Pairwise fun c d => c.1 < d.1) (c : Host.Cell) (hc : c ∈ m) :
    Memory.lookup c.1 m = some c.2 := by
  induction m with
  | nil => simp at hc
  | cons d rest ih =>
    obtain ⟨k, v⟩ := d
    rw [List.pairwise_cons] at hs
    rcases List.mem_cons.1 hc with rfl | hc
    · simp [Memory.lookup]
    · have : k < c.1 := hs.1 c hc
      simp [Memory.lookup, show c.1 ≠ k by omega, ih hs.2 hc]

/-- In canonical form a cell is listed exactly when its byte is read there and is not the unlisted one. -/
theorem Memory.mem_iff_read (cfg : Config) (m : Memory) (h : Memory.wf cfg m) (a : Nat) (b : Byte) :
    (a, b) ∈ m ↔ Memory.read cfg m a = b ∧ b ≠ Memory.unlisted cfg a := by
  constructor
  · intro hm
    have := Memory.lookup_of_mem m h.1 (a, b) hm
    exact ⟨by simp only at this; simp [Memory.read, this], (h.2 _ hm).2⟩
  · rintro ⟨hr, hne⟩
    cases hl : Memory.lookup a m with
    | none => simp [Memory.read, hl] at hr; exact absurd hr.symm hne
    | some v => simp [Memory.read, hl] at hr; subst hr; exact Memory.lookup_some_mem m a v hl

end Sys2Proof.Machine
end

