-- ==== Sys2Proof/Laws/Ops.lean ====
section
/-! SUPPORT. For each shared operation, what it does, said once: the meanings' proofs cite these lemmas. -/

namespace Sys2Proof.Machine

/-! ## Registers -/

@[simp] theorem State.reg_setReg (s : State) (r q : Reg) (b : Byte) :
    (s.setReg r b).reg q = if q = r then b else s.reg q := by
  simp only [State.reg, State.setReg_v, Vector.getElem_set]
  simp [Fin.ext_iff, eq_comm]

theorem State.reg_setReg_self (s : State) (r : Reg) (b : Byte) : (s.setReg r b).reg r = b := by simp

theorem State.reg_setReg_ne (s : State) (r q : Reg) (b : Byte) (h : q ≠ r) : (s.setReg r b).reg q = s.reg q := by
  simp [h]

/-- A register read sees the registers only. -/
theorem State.reg_congr {s t : State} (h : t.v = s.v) (r : Reg) : t.reg r = s.reg r := by
  simp only [State.reg, h]

theorem setRegsFrom_getElem (bs : List Byte) (k : Nat) (v : Vector Byte 16) (j : Nat) (hj : j < 16) :
    (setRegsFrom k bs v)[j] = if h : k ≤ j ∧ j < k + bs.length then bs[j - k]'(by omega) else v[j] := by
  induction bs generalizing k v with
  | nil => simp [setRegsFrom]
  | cons b bs ih =>
    simp only [setRegsFrom, ih, List.length_cons]
    by_cases h1 : j = k
    · subst h1
      simp [hj]
    · by_cases h2 : k + 1 ≤ j ∧ j < k + 1 + bs.length
      · rw [dif_pos h2, dif_pos (by omega)]
        simp [show j - k = (j - (k + 1)) + 1 by omega]
      · rw [dif_neg h2, dif_neg (show ¬(k ≤ j ∧ j < k + (bs.length + 1)) by omega)]
        by_cases hk : k < 16
        · rw [dif_pos hk, Vector.getElem_set_ne _ _ (Ne.symm h1)]
        · rw [dif_neg hk]

@[simp] theorem State.regsUpTo_length (s : State) (x : Reg) : (s.regsUpTo x).length = x.val + 1 := by
  have := x.isLt
  simp [State.regsUpTo]

theorem State.regsUpTo_getElem (s : State) (x : Reg) (k : Nat) (hk : k < (s.regsUpTo x).length) :
    (s.regsUpTo x)[k] = s.v[k]'(by have := x.isLt; simp at hk; omega) := by
  simp [State.regsUpTo]

theorem State.setResultAndFlag_reg (s : State) (x q : Reg) (b : Byte) (f : Bool) :
    (s.setResultAndFlag x b f).reg q = if q = vf then flagByte f else if q = x then b else s.reg q := by
  simp [State.setResultAndFlag]

/-! ## Accesses: whole-range check first (R52) -/
theorem firstOutOfRange_eq_none (addr n : Nat) : firstOutOfRange addr n = none ↔ n = 0 ∨ addr + n ≤ 4096 := by
  unfold firstOutOfRange
  split <;> simp <;> omega

theorem firstOutOfRange_eq_some (addr n bad : Nat) :
    firstOutOfRange addr n = some bad ↔ 0 < n ∧ addr + n > 4096 ∧ bad = max addr 4096 := by
  unfold firstOutOfRange
  split <;> simp <;> omega

theorem State.memRead_inRange (s : State) (addr n : Nat) (h : n = 0 ∨ addr + n ≤ 4096) :
    s.memRead addr n = .ok ((List.range n).map fun k => s.readByte (addr + k)) := by
  simp [State.memRead, (firstOutOfRange_eq_none addr n).2 h]

theorem State.memRead_outOfRange (s : State) (addr n : Nat) (h0 : 0 < n) (h : addr + n > 4096) :
    s.memRead addr n = .error (max addr 4096) := by
  simp [State.memRead, (firstOutOfRange_eq_some addr n _).2 ⟨h0, h, rfl⟩]

theorem State.memWrite_inRange (s : State) (addr : Nat) (bytes : List Byte) (h : addr + bytes.length ≤ 4096) :
    s.memWrite addr bytes = .ok (s.setMem (Memory.writeBlock s.cfg addr bytes s.mem)) := by
  simp [State.memWrite, (firstOutOfRange_eq_none addr bytes.length).2 (.inr h)]

theorem State.memWrite_outOfRange (s : State) (addr : Nat) (bytes : List Byte) (h0 : 0 < bytes.length)
    (h : addr + bytes.length > 4096) : s.memWrite addr bytes = .error (max addr 4096) := by
  simp [State.memWrite, (firstOutOfRange_eq_some addr bytes.length _).2 ⟨h0, h, rfl⟩]

/-- Everything a block write can do (R52). -/
theorem State.memWrite_cases (s : State) (addr : Nat) (bytes : List Byte) (h0 : 0 < bytes.length) :
    (addr + bytes.length ≤ 4096 ∧ s.memWrite addr bytes = .ok (s.setMem (Memory.writeBlock s.cfg addr bytes s.mem))) ∨
    (addr + bytes.length > 4096 ∧ s.memWrite addr bytes = .error (max addr 4096)) := by
  by_cases h : addr + bytes.length ≤ 4096
  · exact .inl ⟨h, s.memWrite_inRange addr bytes h⟩
  · exact .inr ⟨by omega, s.memWrite_outOfRange addr bytes h0 (by omega)⟩

/-- Everything a read of bytes can do (R52). -/
theorem State.memRead_cases (s : State) (addr n : Nat) :
    ((n = 0 ∨ addr + n ≤ 4096) ∧ s.memRead addr n = .ok ((List.range n).map fun k => s.readByte (addr + k))) ∨
    (0 < n ∧ addr + n > 4096 ∧ s.memRead addr n = .error (max addr 4096)) := by
  by_cases h : n = 0 ∨ addr + n ≤ 4096
  · exact .inl ⟨h, s.memRead_inRange addr n h⟩
  · exact .inr ⟨by omega, by omega, s.memRead_outOfRange addr n (by omega) (by omega)⟩

theorem State.readByte_setMem_writeBlock (s : State) (a x : Nat) (bs : List Byte) :
    (s.setMem (Memory.writeBlock s.cfg a bs s.mem)).readByte x =
      if h : a ≤ x ∧ x < a + bs.length then bs[x - a]'(by omega) else s.readByte x := by
  simp [State.readByte, Memory.read_writeBlock]

/-- A byte read sees the parameters and the memory only. -/
theorem State.readByte_congr {s t : State} (hm : t.mem = s.mem) (hc : t.cfg = s.cfg) (a : Nat) :
    t.readByte a = s.readByte a := by
  simp only [State.readByte, hm, hc]

/-! ## The call stack (R36) -/

theorem State.push_cases (s : State) (v : Word) :
    (s.sp < s.cfg.stackDepth ∧ s.push v = some (s.setStack (s.stack ++ [v]))) ∨
    (s.cfg.stackDepth ≤ s.sp ∧ s.push v = none) := by
  unfold State.push
  split
  · exact .inr ⟨‹_›, rfl⟩
  · exact .inl ⟨by omega, rfl⟩

theorem State.pop_cases (s : State) :
    (s.stack = [] ∧ s.pop = none) ∨
    (∃ rest v, s.stack = rest ++ [v] ∧ s.pop = some (v, s.setStack rest)) := by
  rcases List.eq_nil_or_concat s.stack with h | ⟨rest, v, h⟩
  · exact .inl ⟨h, by simp [State.pop, h]⟩
  · refine .inr ⟨rest, v, by simpa using h, ?_⟩
    simp [State.pop, h]

/-! ## Skips (R92, R124) -/

/-- Everything a skip can do: `pc` plus 2, or nothing. -/
theorem State.skipIf_eq (s : State) (c : Bool) : s.skipIf c = s.setPc (if c then s.pc + 2 else s.pc) := by
  cases c <;> rfl

/-! ## Raising a fatal error (R212) -/

theorem State.fatal_eq (s : State) (reason : FatalReason) (addr depth : Option Nat) :
    s.fatal reason addr depth =
      ((s.setPc (s.pc - 2)).setStatus (.halted ⟨reason, s.pc - 2, addr, depth⟩)).report
        (.fatal ⟨reason, s.pc - 2, addr, depth⟩) := rfl

/-! ## The key set -/

theorem KeySet.lowest_eq_some (ks : KeySet) (k : Nat) :
    KeySet.lowest ks = some k ↔ KeySet.held ks k = true ∧ ∀ j < k, KeySet.held ks j = false := by
  unfold KeySet.lowest
  rw [List.find?_range_eq_some]
  simp
  intro h _
  by_contra hk
  simp [KeySet.held, hk] at h

theorem KeySet.lowest_eq_none (ks : KeySet) : KeySet.lowest ks = none ↔ ∀ k, KeySet.held ks k = false := by
  unfold KeySet.lowest
  rw [List.find?_range_eq_none]
  simp
  constructor
  · intro h k
    by_cases hk : k < 16
    · exact h k hk
    · simp [KeySet.held, hk]
  · intro h k _
    exact h k

end Sys2Proof.Machine
end

