-- ==== Sys2Proof/Laws/Draw.lean ====
section
/-! SUPPORT. The framebuffer operations (spec/60_exceptions.md R231, R232). -/

namespace Sys2Proof.Machine

/-! ## Pixels -/

theorem Framebuffer.pixel_toggle (fb : Framebuffer) (x y x' y' : Nat) :
    Framebuffer.pixel (Framebuffer.toggle fb x y) x' y' =
      if x = x' ∧ y = y' ∧ x < 64 ∧ y < 32 then !Framebuffer.pixel fb x' y' else Framebuffer.pixel fb x' y' := by
  unfold Framebuffer.toggle
  split
  · rename_i h
    unfold Framebuffer.pixel
    by_cases h' : x' < 64 ∧ y' < 32
    · simp only [h', and_self, dite_true, Vector.getElem_set]
      by_cases hy : y = y' <;> by_cases hx : x = x' <;> simp_all
    · simp only [h', dite_false]
      split <;> simp_all
  · rename_i h
    rw [if_neg (by tauto)]

theorem Framebuffer.ext_pixel {fb fb' : Framebuffer}
    (h : ∀ x y, x < 64 → y < 32 → Framebuffer.pixel fb x y = Framebuffer.pixel fb' x y) : fb = fb' := by
  apply Vector.ext
  intro y hy
  apply Vector.ext
  intro x hx
  have := h x y hx hy
  simpa [Framebuffer.pixel, hx, hy] using this

@[simp] theorem Framebuffer.pixel_clear (x y : Nat) : Framebuffer.pixel Framebuffer.clear x y = false := by
  unfold Framebuffer.pixel Framebuffer.clear
  split <;> simp

/-! ## Sprites -/

/-- The first `n` bits of the sprite byte `b`, placed at column `x0` of row `y`, have a 1 on pixel (px, py) of the grid
(R153, R155). -/
def RowHits (x0 y : Nat) (b : Byte) (n px py : Nat) : Prop :=
  px < 64 ∧ py = y ∧ py < 32 ∧ x0 ≤ px ∧ px < x0 + n ∧ b.getLsbD (7 - (px - x0)) = true

/-- What a drawing `d'` made from `d` by turning over the pixels of `hits` looks like (R154). -/
structure Drawn (hits : Nat → Nat → Prop) (d d' : Drawing) : Prop where
  pixel : ∀ px py, Framebuffer.pixel d'.fb px py = true ↔
    (Framebuffer.pixel d.fb px py = true ∧ ¬ hits px py) ∨ (¬ Framebuffer.pixel d.fb px py = true ∧ hits px py)
  collision : d'.collision = true ↔
    d.collision = true ∨ ∃ px py, Framebuffer.pixel d.fb px py = true ∧ hits px py

theorem Drawn.refl {hits : Nat → Nat → Prop} (h : ∀ px py, ¬ hits px py) (d : Drawing) : Drawn hits d d := by
  constructor <;> simp [h]

/-- Drawing one thing and then another that shares no pixel with it. -/
theorem Drawn.trans {h1 h2 h : Nat → Nat → Prop} {d d' d'' : Drawing} (a : Drawn h1 d d') (b : Drawn h2 d' d'')
    (hd : ∀ px py, h1 px py → ¬ h2 px py) (hu : ∀ px py, h px py ↔ h1 px py ∨ h2 px py) : Drawn h d d'' := by
  constructor
  · intro px py
    rw [b.pixel, a.pixel, hu]
    have := hd px py
    tauto
  · rw [b.collision, a.collision, or_assoc]
    apply or_congr_right
    constructor
    · rintro (⟨px, py, hl, hh⟩ | ⟨px, py, hl, hh⟩)
      · exact ⟨px, py, hl, (hu px py).2 (.inl hh)⟩
      · rw [a.pixel] at hl
        have := hd px py
        exact ⟨px, py, by tauto, (hu px py).2 (.inr hh)⟩
    · rintro ⟨px, py, hl, hh⟩
      rcases (hu px py).1 hh with hh | hh
      · exact .inl ⟨px, py, hl, hh⟩
      · have := hd px py
        exact .inr ⟨px, py, by rw [a.pixel]; tauto, hh⟩

/-- A sprite bit on the grid (R154). -/
theorem drawPixel_drawn (x y : Nat) (bit : Bool) (hx : x < 64) (hy : y < 32) (d : Drawing) :
    Drawn (fun px py => px = x ∧ py = y ∧ bit = true) d (drawPixel x y bit d) := by
  cases bit
  · exact Drawn.refl (by simp) d
  · constructor
    · intro px py
      simp only [drawPixel, if_true, Framebuffer.pixel_toggle]
      by_cases hp : x = px ∧ y = py
      · obtain ⟨rfl, rfl⟩ := hp
        simp [hx, hy]
      · rw [if_neg (by tauto)]
        have : ¬ (px = x ∧ py = y) := by tauto
        simp [this]
    · simp only [drawPixel, if_true, Bool.or_eq_true]
      constructor
      · rintro (h | h)
        · exact .inl h
        · exact .inr ⟨x, y, h, rfl, rfl, trivial⟩
      · rintro (h | ⟨px, py, h, rfl, rfl, -⟩)
        · exact .inl h
        · exact .inr h

/-- Everything a sprite row can do (R153 to R155). -/
theorem drawRow_drawn (x0 y : Nat) (b : Byte) (hy : y < 32) (d : Drawing) :
    Drawn (RowHits x0 y b 8) d (drawRow x0 y b d) := by
  suffices ∀ n ≤ 8, Drawn (RowHits x0 y b n) d ((List.range n).foldl
      (fun d c => if x0 + c > 63 then d else drawPixel (x0 + c) y (b.getLsbD (7 - c)) d) d) from this 8 le_rfl
  intro n hle
  induction n with
  | zero => exact Drawn.refl (by intro px py h; unfold RowHits at h; omega) d
  | succ n ih =>
    rw [List.range_succ, List.foldl_append, List.foldl_cons, List.foldl_nil]
    split
    · refine Drawn.trans (h2 := fun _ _ => False) (ih (by omega)) (Drawn.refl (by simp) _) (by simp) fun px py => ?_
      unfold RowHits
      constructor
      · rintro ⟨h1, h2, h3, h4, h5, h6⟩
        exact .inl ⟨h1, h2, h3, h4, by omega, h6⟩
      · rintro (⟨h1, h2, h3, h4, h5, h6⟩ | h)
        · exact ⟨h1, h2, h3, h4, by omega, h6⟩
        · exact h.elim
    · refine Drawn.trans (ih (by omega)) (drawPixel_drawn _ _ _ (by omega) hy _) ?_ fun px py => ?_
      · rintro px py ⟨-, -, -, -, h5, -⟩ ⟨h, -, -⟩
        omega
      · unfold RowHits
        constructor
        · rintro ⟨h1, h2, h3, h4, h5, h6⟩
          by_cases hp : px = x0 + n
          · subst hp
            exact .inr ⟨rfl, h2, by simpa using h6⟩
          · exact .inl ⟨h1, h2, h3, h4, by omega, h6⟩
        · rintro (⟨h1, h2, h3, h4, h5, h6⟩ | ⟨rfl, rfl, h6⟩)
          · exact ⟨h1, h2, h3, h4, by omega, h6⟩
          · exact ⟨by omega, rfl, hy, by omega, by omega, by simpa using h6⟩

/-- Everything the drawn rows of a sprite can do (R151, R153 to R155). -/
theorem drawRows_drawn (x0 : Nat) (bytes : List Byte) (y : Nat) (hy : y + bytes.length ≤ 32) (d : Drawing) :
    Drawn (fun px py => px < 64 ∧ py < 32 ∧ x0 ≤ px ∧ px < x0 + 8 ∧ y ≤ py ∧
      ∃ h : py - y < bytes.length, (bytes[py - y]).getLsbD (7 - (px - x0)) = true) d (drawRows x0 y bytes d) := by
  induction bytes generalizing y d with
  | nil => exact Drawn.refl (by simp) d
  | cons b bs ih =>
    simp only [List.length_cons] at hy
    refine Drawn.trans (drawRow_drawn x0 y b (by omega) d) (ih (y + 1) (by omega) _) ?_ fun px py => ?_
    · rintro px py ⟨-, h2, -⟩ ⟨-, -, -, -, h, -⟩
      omega
    · unfold RowHits
      constructor
      · rintro ⟨h1, h2, h3, h4, h5, h6, h7⟩
        by_cases hp : py = y
        · subst hp
          exact .inl ⟨h1, rfl, h2, h3, h4, by simpa using h7⟩
        · have e : py - y = (py - (y + 1)) + 1 := by omega
          simp only [e, List.length_cons, List.getElem_cons_succ] at h6 h7
          exact .inr ⟨h1, h2, h3, h4, by omega, by omega, h7⟩
      · rintro (⟨h1, rfl, h3, h4, h5, h6⟩ | ⟨h1, h2, h3, h4, h5, h6, h7⟩)
        · exact ⟨h1, h3, h4, h5, le_rfl, by simp, by simpa using h6⟩
        · have e : py - y = (py - (y + 1)) + 1 := by omega
          refine ⟨h1, h2, h3, h4, by omega, ?_⟩
          simp only [e, List.length_cons, List.getElem_cons_succ]
          exact ⟨by omega, h7⟩

end Sys2Proof.Machine
end

