-- ==== Sys2Proof/Laws/Encoding.lean ====
section
/-! SUPPORT. Fields of a word, and the masks of the opcode table as fields (spec/30_encoding.md R81, R83). -/

namespace Sys2Proof

theorem toNat_append_add {n m : Nat} (a : BitVec n) (b : BitVec m) : (a ++ b).toNat = a.toNat * 2 ^ m + b.toNat := by
  rw [BitVec.toNat_append, ← Nat.shiftLeft_add_eq_or_of_lt b.isLt, Nat.shiftLeft_eq]

theorem toNat_extract (w : Word) (lo len : Nat) : (w.extractLsb' lo len).toNat = field w lo len := by
  simp [field, Nat.shiftRight_eq_div_pow]

theorem toNat_and_F000 (w : Word) : (w &&& 0xF000#16).toNat = 4096 * field w 12 4 := by
  have h : (w &&& 0xF000#16).toNat = (w.extractLsb' 12 4 ++ 0#12).toNat := by
    apply Nat.eq_of_testBit_eq
    intro i
    rw [BitVec.testBit_toNat, BitVec.testBit_toNat, BitVec.getLsbD_append]
    by_cases hi : i < 16
    · interval_cases i <;> simp
    · simp [BitVec.getLsbD_of_ge, show 16 ≤ i by omega, show ¬ i < 12 by omega, show ¬ (i - 12 < 4) by omega]
  rw [h, toNat_append_add, toNat_extract]
  simp [Nat.mul_comm]

theorem toNat_and_F00F (w : Word) : (w &&& 0xF00F#16).toNat = 4096 * field w 12 4 + field w 0 4 := by
  have h : (w &&& 0xF00F#16).toNat = (w.extractLsb' 12 4 ++ (0#8 ++ w.extractLsb' 0 4)).toNat := by
    apply Nat.eq_of_testBit_eq
    intro i
    rw [BitVec.testBit_toNat, BitVec.testBit_toNat, BitVec.getLsbD_append, BitVec.getLsbD_append]
    by_cases hi : i < 16
    · interval_cases i <;> simp
    · simp [BitVec.getLsbD_of_ge, show 16 ≤ i by omega, show ¬ i < 12 by omega, show ¬ (i - 12 < 4) by omega]
  rw [h, toNat_append_add, toNat_append_add, toNat_extract, toNat_extract]
  simp [Nat.mul_comm]

theorem toNat_and_F0FF (w : Word) : (w &&& 0xF0FF#16).toNat = 4096 * field w 12 4 + field w 0 8 := by
  have h : (w &&& 0xF0FF#16).toNat = (w.extractLsb' 12 4 ++ (0#4 ++ w.extractLsb' 0 8)).toNat := by
    apply Nat.eq_of_testBit_eq
    intro i
    rw [BitVec.testBit_toNat, BitVec.testBit_toNat, BitVec.getLsbD_append, BitVec.getLsbD_append]
    by_cases hi : i < 16
    · interval_cases i <;> simp
    · simp [BitVec.getLsbD_of_ge, show 16 ≤ i by omega, show ¬ i < 12 by omega, show ¬ (i - 12 < 4) by omega]
  rw [h, toNat_append_add, toNat_append_add, toNat_extract, toNat_extract]
  simp [Nat.mul_comm]

/-- Fields of the word built from nibbles -/
theorem field_ofNat (n lo len : Nat) (h : n < 65536) : field (BitVec.ofNat 16 n) lo len = n / 2 ^ lo % 2 ^ len := by
  simp [field, Nat.mod_eq_of_lt h]

/-! The fields of each format, read back from the word the encoder writes (R81). -/

theorem fields_encodeXNN (op : Nat) (hop : op < 16) (x : Reg) (nn : Byte) :
    field (encodeXNN op x nn) 12 4 = op ∧ xField (encodeXNN op x nn) = x ∧ nnField (encodeXNN op x nn) = nn := by
  have hx := x.isLt
  have hn := nn.isLt
  simp only [encodeXNN, xField, nnField, Fin.ext_iff]
  refine ⟨?_, ?_, BitVec.eq_of_toNat_eq ?_⟩ <;> rw [field_ofNat _ _ _ (by omega)]
  · omega
  · omega
  · simp
    omega

theorem fields_encodeNNN (op : Nat) (hop : op < 16) (nnn : Addr12) :
    field (encodeNNN op nnn) 12 4 = op ∧ nnnField (encodeNNN op nnn) = nnn := by
  have hn := nnn.isLt
  simp only [encodeNNN, nnnField]
  refine ⟨?_, BitVec.eq_of_toNat_eq ?_⟩ <;> rw [field_ofNat _ _ _ (by omega)]
  · omega
  · simp
    omega

theorem fields_encodeXYN (op : Nat) (hop : op < 16) (x y : Reg) (n : Nat) (hn : n < 16) :
    field (encodeXYN op x y n) 12 4 = op ∧ xField (encodeXYN op x y n) = x ∧ yField (encodeXYN op x y n) = y ∧
      field (encodeXYN op x y n) 0 4 = n := by
  have hx := x.isLt
  have hy := y.isLt
  simp only [encodeXYN, xField, yField, Fin.ext_iff]
  refine ⟨?_, ?_, ?_, ?_⟩ <;> rw [field_ofNat _ _ _ (by omega)] <;> omega

theorem fields_encodeXF (op : Nat) (hop : op < 16) (x : Reg) (fn : Nat) (hfn : fn < 256) :
    field (encodeXF op x fn) 12 4 = op ∧ xField (encodeXF op x fn) = x ∧ field (encodeXF op x fn) 0 8 = fn := by
  have hx := x.isLt
  simp only [encodeXF, xField, Fin.ext_iff]
  refine ⟨?_, ?_, ?_⟩ <;> rw [field_ofNat _ _ _ (by omega)] <;> omega

/-! A row with one of the table's masks covers exactly the words with its fields (R83). -/

theorem covers_F000 (k : Nat) (w : Word) (op : Nat) (hop : op < 16) :
    OpcodeRow.covers ⟨k, 0xF000#16, BitVec.ofNat 16 (4096 * op)⟩ w ↔ field w 12 4 = op := by
  rw [OpcodeRow.covers, ← BitVec.toNat_inj, toNat_and_F000, BitVec.toNat_ofNat, Nat.mod_eq_of_lt (by omega)]
  omega

theorem covers_F00F (k : Nat) (w : Word) (op n : Nat) (hop : op < 16) (hn : n < 16) :
    OpcodeRow.covers ⟨k, 0xF00F#16, BitVec.ofNat 16 (4096 * op + n)⟩ w ↔ field w 12 4 = op ∧ field w 0 4 = n := by
  have := field_lt w 0 4
  rw [OpcodeRow.covers, ← BitVec.toNat_inj, toNat_and_F00F, BitVec.toNat_ofNat, Nat.mod_eq_of_lt (by omega)]
  omega

theorem covers_F0FF (k : Nat) (w : Word) (op fn : Nat) (hop : op < 16) (hfn : fn < 256) :
    OpcodeRow.covers ⟨k, 0xF0FF#16, BitVec.ofNat 16 (4096 * op + fn)⟩ w ↔ field w 12 4 = op ∧ field w 0 8 = fn := by
  have := field_lt w 0 8
  rw [OpcodeRow.covers, ← BitVec.toNat_inj, toNat_and_F0FF, BitVec.toNat_ofNat, Nat.mod_eq_of_lt (by omega)]
  omega

end Sys2Proof
end

