-- ==== Sys2Proof/Laws/Steps.lean ====
section
/-! SUPPORT. Runs as steps, the fetch as bytes of memory, and the decoder's two answers. -/

namespace Sys2Proof.Machine

@[simp] theorem steps_zero (s t : State) : Steps 0 s t ↔ s = t := by
  constructor
  · intro h
    injection h
  · rintro rfl
    rfl

/-- A run of `k + 1` steps is a step and then a run of `k`. -/
theorem steps_succ (k : Nat) (s t : State) : Steps (k + 1) s t ↔ ∃ u, step s = .next u ∧ Steps k u t := by
  have hstep : Sys2Proof.core.step s = step s := rfl
  simp only [Steps, Host.Core.run, hstep]
  cases h : step s <;> simp

/-- A run of `j + k` steps is a run of `j` and then a run of `k`. -/
theorem steps_add (j k : Nat) (s t : State) : Steps (j + k) s t ↔ ∃ u, Steps j s u ∧ Steps k u t := by
  induction j generalizing s with
  | zero => simp
  | succ j ih =>
    rw [Nat.succ_add]
    simp only [steps_succ, ih]
    constructor
    · rintro ⟨u, h1, v, h2, h3⟩
      exact ⟨v, ⟨u, h1, h2⟩, h3⟩
    · rintro ⟨v, ⟨u, h1, h2⟩, h3⟩
      exact ⟨u, h1, v, h2, h3⟩

/-- The big-endian word of two bytes is their concatenation (R56). -/
theorem wordOfBytes_eq_append (hi lo : Byte) : wordOfBytes hi lo = hi ++ lo := by
  apply BitVec.eq_of_toNat_eq
  rw [BitVec.toNat_append, ← Nat.shiftLeft_add_eq_or_of_lt lo.isLt, Nat.shiftLeft_eq]
  simp [wordOfBytes]
  omega

/-- Everything a fetch can do (R90, R91). -/
theorem State.fetchWord_cases (s : State) :
    (s.pc.toNat ≤ 4094 ∧ s.fetchWord = some (s.readByte s.pc.toNat ++ s.readByte (s.pc.toNat + 1))) ∨
    (s.pc.toNat > 4094 ∧ s.fetchWord = none) := by
  by_cases h : s.pc.toNat > 4094
  · exact .inr ⟨h, by simp [State.fetchWord, h]⟩
  · exact .inl ⟨by omega, by simp [State.fetchWord, h, wordOfBytes_eq_append]⟩

/-- Everything a move can do. -/
theorem takeMove_cases (m : Move) (s : State) :
    (m = .mainLoop ∧ s.status = .running ∧ takeMove m s = runCycle s) ∨
    (∃ r, m = .mainLoop ∧ s.status = .halted r ∧ takeMove m s = .fault (.coreHalted r)) ∨
    (m = .tick ∧ takeMove m s = .next (tick s)) ∨
    (∃ k, m = .keys k ∧ takeMove m s = .next (s.setKeys k)) ∨
    (m = .quit ∧ takeMove m s = .fault .hostQuit) := by
  cases m with
  | mainLoop => cases h : s.status <;> simp [takeMove, mainLoopTurn, h]
  | tick => simp [takeMove]
  | keys k => simp [takeMove]
  | quit => simp [takeMove]

/-- A tick changes the timers only (R226, R227). -/
theorem tick_eq (s : State) :
    tick s = (s.setDt (decrementClamped s.dt)).setSt
      (if s.cfg.soundTimerDecays then decrementClamped s.st else s.st) := by
  unfold tick
  split <;> rfl

theorem decrementClamped_toNat (b : Byte) : (decrementClamped b).toNat = b.toNat - 1 := by
  unfold decrementClamped
  split
  · rw [BitVec.toNat_sub]
    have := b.isLt
    simp
    omega
  · omega

end Sys2Proof.Machine
end

