-- ==== Sys2Proof/Laws/Executions.lean ====
section
/-! SUPPORT. No move reads the schedule: what an agent's move does is the same whatever is scheduled (spec/60_exceptions.md R228),
so a step of the machine is a move of an execution. -/

namespace Sys2Proof.Machine

/-! ## What is scheduled -/

@[simp] theorem State.laterMoves_cons (s : State) (m : Move) (rest : List Move) :
    (s.setSchedule (m :: rest)).laterMoves = rest := rfl
@[simp] theorem State.laterMoves_nil (s : State) : (s.setSchedule []).laterMoves = [.tick] := rfl
@[simp] theorem State.nextMove_cons (s : State) (m : Move) (rest : List Move) :
    (s.setSchedule (m :: rest)).nextMove = m := rfl
@[simp] theorem State.nextMove_nil (s : State) : (s.setSchedule []).nextMove = .mainLoop := rfl

/-- A step of a state with `m` first in its schedule is the move `m`. -/
theorem step_cons (s : State) (m : Move) (rest : List Move) :
    step (s.setSchedule (m :: rest)) = takeMove m (s.setSchedule rest) := rfl

/-! ## No move reads the schedule -/

/-- No instruction reads the schedule or writes it. -/
theorem exec_setSchedule (i : Instr) (s : State) (l : List Move) :
    ∃ t, exec i s = .next t ∧ t.schedule = s.schedule ∧ exec i (s.setSchedule l) = .next (t.setSchedule l) := by
  cases i
  case ret =>
    simp only [exec, execRet, State.pop, State.setSchedule_stack]
    cases s.stack.getLast? <;> exact ⟨_, rfl, rfl, rfl⟩
  case call =>
    simp only [exec, execCall, State.push, State.sp, State.setSchedule_stack, State.setSchedule_cfg]
    by_cases h : s.stack.length ≥ s.cfg.stackDepth
    · simp only [h, if_true]; exact ⟨_, rfl, rfl, rfl⟩
    · simp only [h, if_false]; exact ⟨_, rfl, rfl, rfl⟩
  case drw x y n =>
    have e : (s.setSchedule l).memRead (s.setSchedule l).i.toNat ((s.setSchedule l).drawnRows y n) =
      s.memRead s.i.toNat (s.drawnRows y n) := rfl
    simp only [exec, execDrw, e]
    cases s.memRead s.i.toNat (s.drawnRows y n) <;> exact ⟨_, rfl, rfl, rfl⟩
  case ldVK x =>
    simp only [exec, execLdVK, State.setSchedule_keys]
    cases KeySet.lowest s.keys <;> exact ⟨_, rfl, rfl, rfl⟩
  case ldB x =>
    simp only [exec, execLdB, State.memWrite, State.setSchedule_reg, State.setSchedule_i, State.setSchedule_cfg,
      State.setSchedule_mem]
    cases firstOutOfRange s.i.toNat (bcdDigits (s.reg x)).length <;> exact ⟨_, rfl, rfl, rfl⟩
  case ldMemV x =>
    have e : (s.setSchedule l).regsUpTo x = s.regsUpTo x := rfl
    simp only [exec, execLdMemV, State.memWrite, e, State.setSchedule_i, State.setSchedule_cfg, State.setSchedule_mem]
    cases firstOutOfRange s.i.toNat (s.regsUpTo x).length <;> exact ⟨_, rfl, rfl, rfl⟩
  case ldVMem x =>
    have e : (s.setSchedule l).memRead (s.setSchedule l).i.toNat (x.val + 1) = s.memRead s.i.toNat (x.val + 1) := rfl
    simp only [exec, execLdVMem, e]
    cases s.memRead s.i.toNat (x.val + 1) <;> exact ⟨_, rfl, rfl, rfl⟩
  all_goals first
    | exact ⟨_, rfl, rfl, rfl⟩
    | (simp only [exec, execSeImm, execSneImm, execSeReg, execSneReg, execSkp, execSknp, State.skipIf_eq]
       exact ⟨_, rfl, rfl, rfl⟩)

/-- No move of an agent reads the schedule or writes it. -/
theorem takeMove_setSchedule (m : Move) (s t : State) (l : List Move) (h : takeMove m s = .next t) :
    t.schedule = s.schedule ∧ takeMove m (s.setSchedule l) = .next (t.setSchedule l) := by
  cases m with
  | mainLoop =>
    simp only [takeMove, mainLoopTurn, State.setSchedule_status] at h ⊢
    cases hs : s.status with
    | halted r => simp [hs] at h
    | running =>
      have ef : (s.setSchedule l).fetchWord = s.fetchWord := rfl
      simp only [hs, runCycle, ef] at h ⊢
      cases hf : s.fetchWord with
      | none =>
        simp only [hf] at h ⊢
        injection h with h
        subst h
        exact ⟨rfl, rfl⟩
      | some w =>
        simp only [hf] at h ⊢
        cases hd : decode w with
        | instr i =>
          simp only [hd, executeDecoded] at h ⊢
          obtain ⟨u, h1, h2, h3⟩ := exec_setSchedule i s.advance l
          rw [h1] at h
          injection h with h
          subst h
          exact ⟨h2, h3⟩
        | unmatched w' =>
          simp only [hd, executeDecoded] at h ⊢
          injection h with h
          subst h
          exact ⟨rfl, rfl⟩
  | tick =>
    simp only [takeMove, tick_eq] at h ⊢
    injection h with h
    subst h
    exact ⟨rfl, rfl⟩
  | keys k =>
    injection h with h
    subst h
    exact ⟨rfl, rfl⟩
  | quit => cases h

/-- A move leads from one state to another exactly when taking it does, up to what is scheduled. -/
theorem moves_iff (m : Move) (s t : State) : Moves m s t ↔ takeMove m s = .next (t.setSchedule s.schedule) := by
  unfold Moves
  rw [step_cons]
  constructor
  · intro h
    exact (takeMove_setSchedule m _ _ s.schedule h).2
  · intro h
    exact (takeMove_setSchedule m _ _ [] h).2

/-- Everything a step does: the next move is taken, and what stays scheduled is what was scheduled after it. -/
theorem step_next_iff (s t : State) :
    step s = .next t ↔ Moves s.nextMove s t ∧ t.schedule = s.laterMoves := by
  unfold step State.popMove
  rw [moves_iff]
  constructor
  · intro h
    have h1 := takeMove_setSchedule _ _ _ s.schedule h
    exact ⟨h1.2, h1.1⟩
  · rintro ⟨h, hs⟩
    rw [(takeMove_setSchedule _ _ _ s.laterMoves h).2, ← hs]
    rfl

end Sys2Proof.Machine
end

