-- ==== Sys2Proof/Laws/PerInstr.lean ====
section
/-! SUPPORT. Family RowCovers: the word of a well-formed instruction is covered by its row of the opcode table (spec/30_encoding.md
R83). One lemma per constructor of Instr. -/

namespace Sys2Proof.Laws.RowCovers

/-- The encoding of `i` matches the mask and match of the row of R83 that `i` belongs to. -/
def Statement (i : Instr) : Prop := i.wf = true → ∃ r ∈ opcodeTable, r.number = i.row ∧ r.covers (encode i)

theorem cls : Statement .cls := fun _ => ⟨⟨1, 0xFFFF#16, 0x00E0#16⟩, by decide, rfl, by decide⟩

theorem ret : Statement .ret := fun _ => ⟨⟨2, 0xFFFF#16, 0x00EE#16⟩, by decide, rfl, by decide⟩

theorem jp (nnn : Addr12) : Statement (.jp nnn) := fun _ =>
  ⟨⟨3, 0xF000#16, 0x1000#16⟩, by decide, rfl, (covers_F000 3 _ 0x1 (by omega)).2 (fields_encodeNNN 0x1 (by omega) nnn).1⟩

theorem call (nnn : Addr12) : Statement (.call nnn) := fun _ =>
  ⟨⟨4, 0xF000#16, 0x2000#16⟩, by decide, rfl, (covers_F000 4 _ 0x2 (by omega)).2 (fields_encodeNNN 0x2 (by omega) nnn).1⟩

theorem ldI (nnn : Addr12) : Statement (.ldI nnn) := fun _ =>
  ⟨⟨20, 0xF000#16, 0xA000#16⟩, by decide, rfl, (covers_F000 20 _ 0xA (by omega)).2 (fields_encodeNNN 0xA (by omega) nnn).1⟩

theorem seImm (x : Reg) (nn : Byte) : Statement (.seImm x nn) := fun _ =>
  ⟨⟨5, 0xF000#16, 0x3000#16⟩, by decide, rfl, (covers_F000 5 _ 0x3 (by omega)).2 (fields_encodeXNN 0x3 (by omega) x nn).1⟩

theorem sneImm (x : Reg) (nn : Byte) : Statement (.sneImm x nn) := fun _ =>
  ⟨⟨6, 0xF000#16, 0x4000#16⟩, by decide, rfl, (covers_F000 6 _ 0x4 (by omega)).2 (fields_encodeXNN 0x4 (by omega) x nn).1⟩

theorem ldImm (x : Reg) (nn : Byte) : Statement (.ldImm x nn) := fun _ =>
  ⟨⟨9, 0xF000#16, 0x6000#16⟩, by decide, rfl, (covers_F000 9 _ 0x6 (by omega)).2 (fields_encodeXNN 0x6 (by omega) x nn).1⟩

theorem addImm (x : Reg) (nn : Byte) : Statement (.addImm x nn) := fun _ =>
  ⟨⟨10, 0xF000#16, 0x7000#16⟩, by decide, rfl, (covers_F000 10 _ 0x7 (by omega)).2 (fields_encodeXNN 0x7 (by omega) x nn).1⟩

theorem seReg (x y : Reg) : Statement (.seReg x y) := fun _ =>
  have h := fields_encodeXYN 0x5 (by omega) x y 0x0 (by omega)
  ⟨⟨7, 0xF00F#16, 0x5000#16⟩, by decide, rfl, (covers_F00F 7 _ 0x5 0x0 (by omega) (by omega)).2 ⟨h.1, h.2.2.2⟩⟩

theorem sneReg (x y : Reg) : Statement (.sneReg x y) := fun _ =>
  have h := fields_encodeXYN 0x9 (by omega) x y 0x0 (by omega)
  ⟨⟨8, 0xF00F#16, 0x9000#16⟩, by decide, rfl, (covers_F00F 8 _ 0x9 0x0 (by omega) (by omega)).2 ⟨h.1, h.2.2.2⟩⟩

theorem ldReg (x y : Reg) : Statement (.ldReg x y) := fun _ =>
  have h := fields_encodeXYN 0x8 (by omega) x y 0x0 (by omega)
  ⟨⟨11, 0xF00F#16, 0x8000#16⟩, by decide, rfl, (covers_F00F 11 _ 0x8 0x0 (by omega) (by omega)).2 ⟨h.1, h.2.2.2⟩⟩

theorem orReg (x y : Reg) : Statement (.orReg x y) := fun _ =>
  have h := fields_encodeXYN 0x8 (by omega) x y 0x1 (by omega)
  ⟨⟨12, 0xF00F#16, 0x8001#16⟩, by decide, rfl, (covers_F00F 12 _ 0x8 0x1 (by omega) (by omega)).2 ⟨h.1, h.2.2.2⟩⟩

theorem andReg (x y : Reg) : Statement (.andReg x y) := fun _ =>
  have h := fields_encodeXYN 0x8 (by omega) x y 0x2 (by omega)
  ⟨⟨13, 0xF00F#16, 0x8002#16⟩, by decide, rfl, (covers_F00F 13 _ 0x8 0x2 (by omega) (by omega)).2 ⟨h.1, h.2.2.2⟩⟩

theorem xorReg (x y : Reg) : Statement (.xorReg x y) := fun _ =>
  have h := fields_encodeXYN 0x8 (by omega) x y 0x3 (by omega)
  ⟨⟨14, 0xF00F#16, 0x8003#16⟩, by decide, rfl, (covers_F00F 14 _ 0x8 0x3 (by omega) (by omega)).2 ⟨h.1, h.2.2.2⟩⟩

theorem addReg (x y : Reg) : Statement (.addReg x y) := fun _ =>
  have h := fields_encodeXYN 0x8 (by omega) x y 0x4 (by omega)
  ⟨⟨15, 0xF00F#16, 0x8004#16⟩, by decide, rfl, (covers_F00F 15 _ 0x8 0x4 (by omega) (by omega)).2 ⟨h.1, h.2.2.2⟩⟩

theorem subReg (x y : Reg) : Statement (.subReg x y) := fun _ =>
  have h := fields_encodeXYN 0x8 (by omega) x y 0x5 (by omega)
  ⟨⟨16, 0xF00F#16, 0x8005#16⟩, by decide, rfl, (covers_F00F 16 _ 0x8 0x5 (by omega) (by omega)).2 ⟨h.1, h.2.2.2⟩⟩

theorem shr (x y : Reg) : Statement (.shr x y) := fun _ =>
  have h := fields_encodeXYN 0x8 (by omega) x y 0x6 (by omega)
  ⟨⟨17, 0xF00F#16, 0x8006#16⟩, by decide, rfl, (covers_F00F 17 _ 0x8 0x6 (by omega) (by omega)).2 ⟨h.1, h.2.2.2⟩⟩

theorem subn (x y : Reg) : Statement (.subn x y) := fun _ =>
  have h := fields_encodeXYN 0x8 (by omega) x y 0x7 (by omega)
  ⟨⟨18, 0xF00F#16, 0x8007#16⟩, by decide, rfl, (covers_F00F 18 _ 0x8 0x7 (by omega) (by omega)).2 ⟨h.1, h.2.2.2⟩⟩

theorem shl (x y : Reg) : Statement (.shl x y) := fun _ =>
  have h := fields_encodeXYN 0x8 (by omega) x y 0xE (by omega)
  ⟨⟨19, 0xF00F#16, 0x800E#16⟩, by decide, rfl, (covers_F00F 19 _ 0x8 0xE (by omega) (by omega)).2 ⟨h.1, h.2.2.2⟩⟩

theorem drw (x y : Reg) (n : Nat) : Statement (.drw x y n) := fun hwf =>
  have hn : n < 16 := by simp [Instr.wf] at hwf; omega
  ⟨⟨21, 0xF000#16, 0xD000#16⟩, by decide, rfl, (covers_F000 21 _ 0xD (by omega)).2 (fields_encodeXYN 0xD (by omega) x y n hn).1⟩

theorem skp (x : Reg) : Statement (.skp x) := fun _ =>
  have h := fields_encodeXF 0xE (by omega) x 0x9E (by omega)
  ⟨⟨22, 0xF0FF#16, 0xE09E#16⟩, by decide, rfl, (covers_F0FF 22 _ 0xE 0x9E (by omega) (by omega)).2 ⟨h.1, h.2.2⟩⟩

theorem sknp (x : Reg) : Statement (.sknp x) := fun _ =>
  have h := fields_encodeXF 0xE (by omega) x 0xA1 (by omega)
  ⟨⟨23, 0xF0FF#16, 0xE0A1#16⟩, by decide, rfl, (covers_F0FF 23 _ 0xE 0xA1 (by omega) (by omega)).2 ⟨h.1, h.2.2⟩⟩

theorem ldVDt (x : Reg) : Statement (.ldVDt x) := fun _ =>
  have h := fields_encodeXF 0xF (by omega) x 0x07 (by omega)
  ⟨⟨24, 0xF0FF#16, 0xF007#16⟩, by decide, rfl, (covers_F0FF 24 _ 0xF 0x07 (by omega) (by omega)).2 ⟨h.1, h.2.2⟩⟩

theorem ldDtV (x : Reg) : Statement (.ldDtV x) := fun _ =>
  have h := fields_encodeXF 0xF (by omega) x 0x15 (by omega)
  ⟨⟨25, 0xF0FF#16, 0xF015#16⟩, by decide, rfl, (covers_F0FF 25 _ 0xF 0x15 (by omega) (by omega)).2 ⟨h.1, h.2.2⟩⟩

theorem ldStV (x : Reg) : Statement (.ldStV x) := fun _ =>
  have h := fields_encodeXF 0xF (by omega) x 0x18 (by omega)
  ⟨⟨26, 0xF0FF#16, 0xF018#16⟩, by decide, rfl, (covers_F0FF 26 _ 0xF 0x18 (by omega) (by omega)).2 ⟨h.1, h.2.2⟩⟩

theorem addI (x : Reg) : Statement (.addI x) := fun _ =>
  have h := fields_encodeXF 0xF (by omega) x 0x1E (by omega)
  ⟨⟨27, 0xF0FF#16, 0xF01E#16⟩, by decide, rfl, (covers_F0FF 27 _ 0xF 0x1E (by omega) (by omega)).2 ⟨h.1, h.2.2⟩⟩

theorem ldVK (x : Reg) : Statement (.ldVK x) := fun _ =>
  have h := fields_encodeXF 0xF (by omega) x 0x0A (by omega)
  ⟨⟨28, 0xF0FF#16, 0xF00A#16⟩, by decide, rfl, (covers_F0FF 28 _ 0xF 0x0A (by omega) (by omega)).2 ⟨h.1, h.2.2⟩⟩

theorem ldF (x : Reg) : Statement (.ldF x) := fun _ =>
  have h := fields_encodeXF 0xF (by omega) x 0x29 (by omega)
  ⟨⟨29, 0xF0FF#16, 0xF029#16⟩, by decide, rfl, (covers_F0FF 29 _ 0xF 0x29 (by omega) (by omega)).2 ⟨h.1, h.2.2⟩⟩

theorem ldB (x : Reg) : Statement (.ldB x) := fun _ =>
  have h := fields_encodeXF 0xF (by omega) x 0x33 (by omega)
  ⟨⟨30, 0xF0FF#16, 0xF033#16⟩, by decide, rfl, (covers_F0FF 30 _ 0xF 0x33 (by omega) (by omega)).2 ⟨h.1, h.2.2⟩⟩

theorem ldMemV (x : Reg) : Statement (.ldMemV x) := fun _ =>
  have h := fields_encodeXF 0xF (by omega) x 0x55 (by omega)
  ⟨⟨31, 0xF0FF#16, 0xF055#16⟩, by decide, rfl, (covers_F0FF 31 _ 0xF 0x55 (by omega) (by omega)).2 ⟨h.1, h.2.2⟩⟩

theorem ldVMem (x : Reg) : Statement (.ldVMem x) := fun _ =>
  have h := fields_encodeXF 0xF (by omega) x 0x65 (by omega)
  ⟨⟨32, 0xF0FF#16, 0xF065#16⟩, by decide, rfl, (covers_F0FF 32 _ 0xF 0x65 (by omega) (by omega)).2 ⟨h.1, h.2.2⟩⟩

end Sys2Proof.Laws.RowCovers
end

