-- ==== Sys2Proof/Laws/Words.lean ====
section
/-! SUPPORT. The words the rules' "Encoding" lines write (R100 to R188) are the words of the encoder, format by format. -/

namespace Sys2Proof.Claims

/-- An OR with a value below a multiple of a power of two is a sum. -/
theorem or_eq_add (a k b : Nat) (h : b < 2 ^ k) : a * 2 ^ k ||| b = a * 2 ^ k + b := by
  rw [← Nat.shiftLeft_eq, Nat.shiftLeft_add_eq_or_of_lt h]

theorem toNat_reg_shift (x : Reg) (k : Nat) (hk : k ≤ 12) :
    (BitVec.ofNat 16 x.val <<< k).toNat = x.val * 2 ^ k := by
  have hx := x.isLt
  have : x.val * 2 ^ k < 16 * 2 ^ k := Nat.mul_lt_mul_of_pos_right hx (Nat.two_pow_pos k)
  have h12 : 2 ^ k ≤ 2 ^ 12 := Nat.pow_le_pow_right (by omega) hk
  rw [BitVec.toNat_shiftLeft, Nat.shiftLeft_eq, BitVec.toNat_ofNat, Nat.mod_eq_of_lt (a := x.val) (by omega),
    Nat.mod_eq_of_lt (by omega)]

theorem wordNNN_eq (op : Nat) (hop : op < 16) (nnn : Addr12) :
    wordNNN (BitVec.ofNat 16 (4096 * op)) nnn = encodeNNN op nnn := by
  have hn := nnn.isLt
  apply BitVec.eq_of_toNat_eq
  rw [wordNNN, BitVec.toNat_or, encodeNNN, BitVec.toNat_ofNat, BitVec.toNat_ofNat, BitVec.toNat_setWidth,
    Nat.mod_eq_of_lt (by omega), Nat.mod_eq_of_lt (by omega), Nat.mod_eq_of_lt (by omega), Nat.mul_comm 4096]
  exact or_eq_add op 12 nnn.toNat (by omega)

theorem wordX_eq (op fn : Nat) (hop : op < 16) (hfn : fn < 256) (x : Reg) :
    wordX (BitVec.ofNat 16 (4096 * op + fn)) x = encodeXF op x fn := by
  have hx := x.isLt
  apply BitVec.eq_of_toNat_eq
  have h1 := or_eq_add op 12 fn (by omega)
  have h2 := or_eq_add op 12 (x.val * 2 ^ 8) (by omega)
  have h3 := or_eq_add (op * 16 + x.val) 8 fn (by omega)
  rw [wordX, BitVec.toNat_or, toNat_reg_shift x 8 (by omega), encodeXF, BitVec.toNat_ofNat, BitVec.toNat_ofNat,
    Nat.mod_eq_of_lt (by omega), Nat.mod_eq_of_lt (by omega)]
  rw [show 4096 * op + fn = op * 2 ^ 12 + fn by omega, ← h1, Nat.or_assoc, Nat.or_comm fn, ← Nat.or_assoc, h2,
    show op * 2 ^ 12 + x.val * 2 ^ 8 = (op * 16 + x.val) * 2 ^ 8 by omega, h3]
  omega

theorem wordXNN_eq (op : Nat) (hop : op < 16) (x : Reg) (nn : Byte) :
    wordXNN (BitVec.ofNat 16 (4096 * op)) x nn = encodeXNN op x nn := by
  have hx := x.isLt
  have hn := nn.isLt
  apply BitVec.eq_of_toNat_eq
  have h3 := or_eq_add (op * 16 + x.val) 8 nn.toNat (by omega)
  have h := congrArg BitVec.toNat (wordX_eq op 0 hop (by omega) x)
  rw [wordX, encodeXF, BitVec.toNat_ofNat, Nat.mod_eq_of_lt (by omega)] at h
  rw [wordXNN, BitVec.toNat_or, show 4096 * op = 4096 * op + 0 by omega, h, encodeXNN, BitVec.toNat_ofNat,
    BitVec.toNat_setWidth, Nat.mod_eq_of_lt (by omega), Nat.mod_eq_of_lt (by omega)]
  rw [show 4096 * op + 256 * x.val + 0 = (op * 16 + x.val) * 2 ^ 8 by omega, h3]
  omega

theorem wordXY_eq (op n : Nat) (hop : op < 16) (hn : n < 16) (x y : Reg) :
    wordXY (BitVec.ofNat 16 (4096 * op + n)) x y = encodeXYN op x y n := by
  have hx := x.isLt
  have hy := y.isLt
  apply BitVec.eq_of_toNat_eq
  have h := congrArg BitVec.toNat (wordX_eq op n hop (by omega) x)
  rw [wordX, encodeXF, BitVec.toNat_ofNat, Nat.mod_eq_of_lt (by omega)] at h
  have h1 := or_eq_add (op * 16 + x.val) 8 n (by omega)
  have h2 := or_eq_add (op * 16 + x.val) 8 (y.val * 2 ^ 4) (by omega)
  have h3 := or_eq_add (op * 256 + x.val * 16 + y.val) 4 n (by omega)
  rw [wordXY, BitVec.toNat_or, h, toNat_reg_shift y 4 (by omega), encodeXYN, BitVec.toNat_ofNat,
    Nat.mod_eq_of_lt (by omega), show 4096 * op + 256 * x.val + n = (op * 16 + x.val) * 2 ^ 8 + n by omega, ← h1,
    Nat.or_assoc, Nat.or_comm n, ← Nat.or_assoc, h2,
    show (op * 16 + x.val) * 2 ^ 8 + y.val * 2 ^ 4 = (op * 256 + x.val * 16 + y.val) * 2 ^ 4 by omega, h3]
  omega

theorem wordXYN_eq (op : Nat) (hop : op < 16) (n : Fin 16) (x y : Reg) :
    wordXY (BitVec.ofNat 16 (4096 * op)) x y ||| BitVec.ofNat 16 n.val = encodeXYN op x y n.val := by
  have hx := x.isLt
  have hy := y.isLt
  have hn := n.isLt
  apply BitVec.eq_of_toNat_eq
  have h := congrArg BitVec.toNat (wordXY_eq op 0 hop (by omega) x y)
  rw [encodeXYN, BitVec.toNat_ofNat, Nat.mod_eq_of_lt (by omega)] at h
  have h3 := or_eq_add (op * 256 + x.val * 16 + y.val) 4 n.val (by omega)
  rw [BitVec.toNat_or, show 4096 * op = 4096 * op + 0 by omega, h, encodeXYN, BitVec.toNat_ofNat, BitVec.toNat_ofNat,
    Nat.mod_eq_of_lt (by omega), Nat.mod_eq_of_lt (by omega),
    show 4096 * op + 256 * x.val + 16 * y.val + 0 = (op * 256 + x.val * 16 + y.val) * 2 ^ 4 by omega, h3]
  omega

end Sys2Proof.Claims
end

