-- ==== Sys2Proof/Tests/Slice0.lean ====
section
/-! SUPPORT. Tests. Every expected value is a vector of spec/95_test_vectors.md (its id is cited) or a word written out from the
formats of R81. The last part shows, for each obligation with hypotheses, states and operands that meet them. -/

namespace Sys2Proof.Tests

open Sys2Proof Sys2Proof.Machine Sys2Proof.Claims

/-! ## Well-formedness refuses -/

theorem test_wf_refuses_a_row_count_of_16 : (Instr.drw 0 0 16).wf = false := by decide
theorem test_wf_refuses_a_stack_of_depth_0 : ({ hardwareConfig with stackDepth := 0 } : Config).wf = false := by decide
theorem test_wf_refuses_a_font_over_the_program : ({ hardwareConfig with fontBase := 433 } : Config).wf = false := by decide
theorem test_wf_refuses_a_font_of_79_bytes :
    ({ hardwareConfig with fontData := fontTable.dropLast } : Config).wf = false := by decide
theorem test_wf_accepts_the_hardware : hardwareConfig.wf = true := by decide

/-! ## Decoding: every constructor from a word written out bit by bit (R81, R83) -/

theorem test_decode_class_0_1_2 :
    decode 0b0000000011100000#16 = .instr .cls ∧
    decode 0b0000000011101110#16 = .instr .ret ∧
    decode 0b0001001000000100#16 = .instr (.jp 0x204#12) ∧
    decode 0b0010111111111111#16 = .instr (.call 0xFFF#12) := by decide

theorem test_decode_skips :
    decode 0b0011111100000001#16 = .instr (.seImm 0xF 0x01#8) ∧
    decode 0b0100001000000011#16 = .instr (.sneImm 2 0x03#8) ∧
    decode 0b0101001101000000#16 = .instr (.seReg 3 4) ∧
    decode 0b1001001101000000#16 = .instr (.sneReg 3 4) := by decide

theorem test_decode_loads :
    decode 0b0110101010011101#16 = .instr (.ldImm 0xA 0x9D#8) ∧
    decode 0b0111000111111111#16 = .instr (.addImm 1 0xFF#8) ∧
    decode 0b1000000100100000#16 = .instr (.ldReg 1 2) := by decide

theorem test_decode_alu :
    decode 0b1000000100100001#16 = .instr (.orReg 1 2) ∧
    decode 0b1000000100100010#16 = .instr (.andReg 1 2) ∧
    decode 0b1000000100100011#16 = .instr (.xorReg 1 2) ∧
    decode 0b1000000100100100#16 = .instr (.addReg 1 2) ∧
    decode 0b1000000100100101#16 = .instr (.subReg 1 2) ∧
    decode 0b1000000100100110#16 = .instr (.shr 1 2) ∧
    decode 0b1000000100100111#16 = .instr (.subn 1 2) ∧
    decode 0b1000000100101110#16 = .instr (.shl 1 2) := by decide

theorem test_decode_index_draw_keys :
    decode 0b1010001011110000#16 = .instr (.ldI 0x2F0#12) ∧
    decode 0b1101000100100101#16 = .instr (.drw 1 2 5) ∧
    decode 0b1110001110011110#16 = .instr (.skp 3) ∧
    decode 0b1110001110100001#16 = .instr (.sknp 3) := by decide

theorem test_decode_class_f :
    decode 0b1111001100000111#16 = .instr (.ldVDt 3) ∧
    decode 0b1111001100010101#16 = .instr (.ldDtV 3) ∧
    decode 0b1111010000011000#16 = .instr (.ldStV 4) ∧
    decode 0b1111001000011110#16 = .instr (.addI 2) ∧
    decode 0b1111010100001010#16 = .instr (.ldVK 5) ∧
    decode 0b1111000000101001#16 = .instr (.ldF 0) ∧
    decode 0b1111010100110011#16 = .instr (.ldB 5) ∧
    decode 0b1111000101010101#16 = .instr (.ldMemV 1) ∧
    decode 0b1111001001100101#16 = .instr (.ldVMem 2) := by decide

/-- S9, V5 to V11: one or more words of every class R85 names. -/
theorem test_decode_unmatched :
    [0x0123#16, 0x0000#16, 0x00E1#16, 0x5121#16, 0x9341#16, 0x8128#16, 0x812F#16, 0xB300#16, 0xC0FF#16, 0xE19F#16, 0xF130#16,
      0xF1FF#16].all (fun w => decode w == .unmatched w) = true := by decide

theorem test_decode_bytes_big_endian : decodeBytes [0xA2, 0xF0, 0x99] = .word (.instr (.ldI 0x2F0#12)) [0x99] := by decide

theorem test_decode_table_word : decodeTableWord 16 0xA2F0 = some (.ldI 0x2F0#12) ∧ decodeTableWord 16 0x0123 = none := by decide

/-! ## One step -/

/-- The reset state with the registers `rs` set. -/
def withRegs (rs : List (Reg × Byte)) : State := rs.foldl (fun s p => s.setReg p.1 p.2) State.reset

/-- The reset state with bytes of memory from `a`. -/
def withBytes (a : Nat) (bytes : List Byte) (s : State) : State := s.setMem (Memory.writeBlock s.cfg a bytes s.mem)

/-- The reset state with I set. -/
def withI (i : Word) (s : State) : State := s.setI i

/-- What `f` sees after one step that runs the word `w`. -/
def after {α : Type} (w : Nat) (s : State) (f : State → α) : Option α :=
  match step (s.withFetchWord 16 w) with
  | .next t => some (f t)
  | _ => none

/-- The halt record and the pc after one step that runs the word `w`. -/
def haltAfter (w : Nat) (s : State) : Option (Status × Word) := after w s fun t => (t.status, t.pc)

/-- Which of the pixels `ps` are lit. -/
def litOf (ps : List (Nat × Nat)) (s : State) : List (Nat × Nat) := ps.filter fun p => Framebuffer.pixel s.fb p.1 p.2

/-- The quirk off. -/
def noQuirk (s : State) : State := { s with cfg := { s.cfg with shiftIgnoresY := false } }

/-- A key set with the keys of a list. -/
def keySet (ks : List Nat) : KeySet := Vector.ofFn fun k : Fin 16 => ks.contains k.val

/-- J1. -/
theorem test_cls_j1 :
    after 0x00E0 (State.reset.setFb (Framebuffer.toggle (Framebuffer.toggle Framebuffer.clear 0 0) 63 31))
      (fun t => (litOf [(0, 0), (63, 31)] t, t.pc)) = some ([], 0x202#16) := by decide

/-- J2. -/
theorem test_ret_j2 :
    after 0x00EE ((State.reset.setStack [0x206#16, 0x31A#16]).setPc 0x400#16) (fun t => (t.pc, t.stack)) =
      some (0x31A#16, [0x206#16]) := by decide

/-- J3. -/
theorem test_ret_underflow_j3 :
    haltAfter 0x00EE State.reset = some (.halted ⟨.stackUnderflow, 0x200#16, none, none⟩, 0x200#16) := by decide

/-- J6. -/
theorem test_jp_odd_j6 : after 0x1201 State.reset (fun t => t.pc) = some 0x201#16 := by decide

/-- J11. -/
theorem test_call_fills_the_stack_j11 :
    after 0x2400 ((State.reset.setStack (List.replicate 15 0x206#16)).setPc 0x300#16)
      (fun t => (t.pc, t.sp, t.stack.getLast?)) = some (0x400#16, 16, some 0x302#16) := by decide

/-- J10. -/
theorem test_call_overflow_j10 :
    haltAfter 0x2400 ((State.reset.setStack (List.replicate 16 0x206#16)).setPc 0x300#16) =
      some (.halted ⟨.stackOverflow, 0x300#16, none, some 16⟩, 0x300#16) := by decide

/-- K1, K2. -/
theorem test_se_imm_k1_k2 :
    after 0x3100 (State.reset.setPc 0x208#16) (fun t => t.pc) = some 0x20C#16 ∧
    after 0x3100 ((withRegs [(1, 1)]).setPc 0x208#16) (fun t => t.pc) = some 0x20A#16 := by decide

/-- K3, K4. -/
theorem test_sne_imm_k3_k4 :
    after 0x4203 ((withRegs [(2, 5)]).setPc 0x208#16) (fun t => t.pc) = some 0x20C#16 ∧
    after 0x4203 ((withRegs [(2, 3)]).setPc 0x208#16) (fun t => t.pc) = some 0x20A#16 := by decide

/-- K5, K6. -/
theorem test_se_reg_k5_k6 :
    after 0x5340 ((withRegs [(3, 0x7F), (4, 0x7F)]).setPc 0x208#16) (fun t => t.pc) = some 0x20C#16 ∧
    after 0x5340 ((withRegs [(3, 1), (4, 2)]).setPc 0x208#16) (fun t => t.pc) = some 0x20A#16 := by decide

/-- K8, K9. -/
theorem test_sne_reg_k8_k9 :
    after 0x9340 ((withRegs [(3, 1), (4, 2)]).setPc 0x208#16) (fun t => t.pc) = some 0x20C#16 ∧
    after 0x9550 ((withRegs [(5, 7)]).setPc 0x208#16) (fun t => t.pc) = some 0x20A#16 := by decide

/-- A1, A2. -/
theorem test_ld_imm_a1_a2 :
    after 0x6A9D State.reset (fun t => t.reg 0xA) = some 0x9D#8 ∧
    after 0x6F42 (withRegs [(vf, 1)]) (fun t => t.reg vf) = some 0x42#8 := by decide

/-- A4. -/
theorem test_add_imm_wraps_a4 :
    after 0x7101 (withRegs [(1, 0xFF)]) (fun t => (t.reg 1, t.reg vf)) = some (0#8, 0#8) := by decide

/-- A5. -/
theorem test_add_imm_vf_a5 : after 0x7F03 (withRegs [(vf, 0xFE)]) (fun t => t.reg vf) = some 1#8 := by decide

/-- A6. -/
theorem test_ld_reg_a6 : after 0x8120 (withRegs [(2, 0x33)]) (fun t => t.reg 1) = some 0x33#8 := by decide

/-- A7. -/
theorem test_or_a7 :
    after 0x8121 (withRegs [(1, 0xF0), (2, 0x0C), (vf, 7)]) (fun t => (t.reg 1, t.reg vf)) = some (0xFC#8, 7#8) := by decide

/-- A8. -/
theorem test_and_a8 : after 0x8122 (withRegs [(1, 0xF0), (2, 0x3C)]) (fun t => t.reg 1) = some 0x30#8 := by decide

/-- A9. -/
theorem test_xor_a9 : after 0x8123 (withRegs [(1, 0xF0), (2, 0x3C)]) (fun t => t.reg 1) = some 0xCC#8 := by decide

/-- A11, A12. -/
theorem test_add_reg_a11_a12 :
    after 0x8124 (withRegs [(1, 0xFF), (2, 1)]) (fun t => (t.reg 1, t.reg vf)) = some (0#8, 1#8) ∧
    after 0x8124 (withRegs [(1, 0x80), (2, 0x7F), (vf, 9)]) (fun t => (t.reg 1, t.reg vf)) = some (0xFF#8, 0#8) := by decide

/-- A14, A15. -/
theorem test_add_reg_with_vf_a14_a15 :
    after 0x8F14 (withRegs [(vf, 0xFF), (1, 1)]) (fun t => t.reg vf) = some 1#8 ∧
    after 0x81F4 (withRegs [(1, 0x10), (vf, 5)]) (fun t => (t.reg 1, t.reg vf)) = some (0x15#8, 0#8) := by decide

/-- A17, A18. -/
theorem test_sub_reg_a17_a18 :
    after 0x8125 (withRegs [(1, 3), (2, 5)]) (fun t => (t.reg 1, t.reg vf)) = some (0xFE#8, 0#8) ∧
    after 0x8125 (withRegs [(1, 7), (2, 7)]) (fun t => (t.reg 1, t.reg vf)) = some (0#8, 1#8) := by decide

/-- A19. -/
theorem test_sub_reg_vf_a19 : after 0x8FF5 (withRegs [(vf, 9)]) (fun t => t.reg vf) = some 1#8 := by decide

/-- A20, A21. -/
theorem test_subn_a20_a21 :
    after 0x8127 (withRegs [(1, 5), (2, 3)]) (fun t => (t.reg 1, t.reg vf)) = some (0xFE#8, 0#8) ∧
    after 0x8127 (withRegs [(1, 3), (2, 5)]) (fun t => (t.reg 1, t.reg vf)) = some (2#8, 1#8) := by decide

/-- A22, A24. -/
theorem test_shr_a22_a24 :
    after 0x8126 (withRegs [(1, 5), (2, 0xFF)]) (fun t => (t.reg 1, t.reg 2, t.reg vf)) = some (2#8, 0xFF#8, 1#8) ∧
    after 0x8F06 (withRegs [(vf, 2)]) (fun t => t.reg vf) = some 0#8 := by decide

/-- A25. -/
theorem test_shr_no_quirk_a25 :
    after 0x8126 (noQuirk (withRegs [(2, 3)])) (fun t => (t.reg 1, t.reg 2, t.reg vf)) = some (1#8, 3#8, 1#8) := by decide

/-- A26, A27. -/
theorem test_shl_a26_a27 :
    after 0x812E (withRegs [(1, 0x81)]) (fun t => (t.reg 1, t.reg vf)) = some (2#8, 1#8) ∧
    after 0x810E (withRegs [(1, 0x40)]) (fun t => (t.reg 1, t.reg vf)) = some (0x80#8, 0#8) := by decide

/-- A28. -/
theorem test_shl_no_quirk_a28 :
    after 0x812E (noQuirk (withRegs [(1, 1), (2, 0x80)])) (fun t => (t.reg 1, t.reg vf)) = some (0#8, 1#8) := by decide

/-- S1. -/
theorem test_ld_i_s1 : after 0xA2F0 State.reset (fun t => (t.i, t.pc)) = some (0x02F0#16, 0x202#16) := by decide

/-- D5: the start wraps, the sprite is clipped at both edges. -/
theorem test_draw_clips_d5 :
    after 0xD125 (withI 0x050#16 (withRegs [(1, 0x7E), (2, 0x3E)])) (fun t =>
      (litOf [(61, 30), (62, 30), (63, 30), (62, 31), (63, 31), (0, 30), (0, 31), (62, 0)] t, t.reg vf)) =
      some ([(62, 30), (63, 30), (62, 31)], 0#8) := by decide

/-- D9, D10: a drawn row above 4095 is fatal with nothing drawn, a row clipped at the bottom is not checked. -/
theorem test_draw_checks_d9_d10 :
    haltAfter 0xD123 (withI 0xFFE#16 (withRegs [(vf, 5)])) =
      some (.halted ⟨.memReadOutOfRange, 0x200#16, some 0x1000, none⟩, 0x200#16) ∧
    after 0xD123 (withBytes 0xFFE [0x80, 0x80] (withI 0xFFE#16 (withRegs [(2, 0x1E)])))
      (fun t => (litOf [(0, 29), (0, 30), (1, 30), (0, 31), (0, 0)] t, t.reg vf)) = some ([(0, 30), (0, 31)], 0#8) := by decide

/-- E1, E2, E5. -/
theorem test_skp_e1_e2_e5 :
    after 0xE39E (((withRegs [(3, 0x0A)]).setPc 0x220#16).setKeys (keySet [0xA])) (fun t => t.pc) = some 0x224#16 ∧
    after 0xE39E (((withRegs [(3, 0x0A)]).setPc 0x220#16).setKeys (keySet [1, 0xB])) (fun t => t.pc) = some 0x222#16 ∧
    after 0xE39E (((withRegs [(3, 0x1A)]).setPc 0x220#16).setKeys (keySet (List.range 16))) (fun t => t.pc) =
      some 0x222#16 := by decide

/-- E3, E4, E6. -/
theorem test_sknp_e3_e4_e6 :
    after 0xE3A1 ((withRegs [(3, 0x0A)]).setPc 0x220#16) (fun t => t.pc) = some 0x224#16 ∧
    after 0xE3A1 (((withRegs [(3, 0x0A)]).setPc 0x220#16).setKeys (keySet [0xA])) (fun t => t.pc) = some 0x222#16 ∧
    after 0xE3A1 (((withRegs [(3, 0x1A)]).setPc 0x220#16).setKeys (keySet (List.range 16))) (fun t => t.pc) =
      some 0x224#16 := by decide

/-- F1. -/
theorem test_ld_v_dt_f1 : after 0xF307 (State.reset.setDt 0x3C#8) (fun t => (t.reg 3, t.dt)) = some (0x3C#8, 0x3C#8) := by decide

/-- F3. -/
theorem test_ld_dt_v_f3 : after 0xF315 (withRegs [(3, 0x3C)]) (fun t => (t.dt, t.st)) = some (0x3C#8, 0#8) := by decide

/-- F4, its first step. -/
theorem test_ld_st_v_f4 : after 0xF418 (withRegs [(4, 0x10)]) (fun t => (t.st, t.dt)) = some (0x10#8, 0#8) := by decide

/-- F5, F6. -/
theorem test_add_i_f5_f6 :
    after 0xF21E (withI 0x0FFE#16 (withRegs [(2, 3)])) (fun t => (t.i, t.reg vf)) = some (0x1001#16, 1#8) ∧
    after 0xF21E (withI 0x0FFE#16 (withRegs [(2, 1)])) (fun t => (t.i, t.reg vf)) = some (0x0FFF#16, 0#8) := by decide

/-- F7, F9. -/
theorem test_add_i_f7_f9 :
    after 0xFF1E (withI 0x100#16 (withRegs [(vf, 5)])) (fun t => (t.i, t.reg vf)) = some (0x105#16, 0#8) ∧
    after 0xF11E (withI 0xFFFF#16 (withRegs [(1, 2)])) (fun t => (t.i, t.reg vf)) = some (1#16, 1#8) := by decide

/-- F10, F11. -/
theorem test_ld_v_k_f10_f11 :
    after 0xF50A ((withRegs [(5, 9)]).setPc 0x230#16) (fun t => (t.pc, t.reg 5)) = some (0x230#16, 9#8) ∧
    after 0xF50A ((State.reset.setPc 0x230#16).setKeys (keySet [7, 3])) (fun t => (t.pc, t.reg 5)) =
      some (0x232#16, 3#8) := by decide

/-- F13, F14. -/
theorem test_ld_f_f13_f14 :
    after 0xF029 (withRegs [(0, 0x1B)]) (fun t => t.i) = some 0x087#16 ∧
    after 0xF029 (withRegs [(0, 0x0F)]) (fun t => t.i) = some 0x09B#16 := by decide

/-- F15, F19. -/
theorem test_ld_b_f15_f19 :
    after 0xF533 (withI 0x300#16 (withRegs [(5, 255)])) (fun t => [0x300, 0x301, 0x302].map t.readByte) =
      some [2#8, 5#8, 5#8] ∧
    after 0xF533 (withI 0xFFD#16 (withRegs [(5, 9)])) (fun t => [0xFFD, 0xFFE, 0xFFF].map t.readByte) =
      some [0#8, 0#8, 9#8] := by decide

/-- F18. -/
theorem test_ld_b_out_of_range_f18 :
    after 0xF533 (withI 0xFFE#16 (withRegs [(5, 9)])) (fun t => (t.status, t.readByte 0xFFF)) =
      some (.halted ⟨.memWriteOutOfRange, 0x200#16, some 0x1000, none⟩, 0#8) := by decide

/-- F20. -/
theorem test_ld_mem_v_f20 :
    after 0xF155 (withI 0x20A#16 (withRegs [(0, 0x61), (1, 0x2A)])) (fun t => ([0x20A, 0x20B].map t.readByte, t.i)) =
      some ([0x61#8, 0x2A#8], 0x20A#16) := by decide

/-- F22. -/
theorem test_ld_mem_v_out_of_range_f22 :
    haltAfter 0xFF55 (withI 0xFF1#16 State.reset) =
      some (.halted ⟨.memWriteOutOfRange, 0x200#16, some 0x1000, none⟩, 0x200#16) := by decide

/-- F23. -/
theorem test_ld_v_mem_f23 :
    after 0xF265 (withBytes 0x300 [1, 5, 7, 9] (withI 0x300#16 State.reset))
      (fun t => ([t.reg 0, t.reg 1, t.reg 2, t.reg 3], t.i)) = some ([1#8, 5#8, 7#8, 0#8], 0x300#16) := by decide

/-- F25. -/
theorem test_ld_v_mem_out_of_range_f25 :
    haltAfter 0xFF65 (withI 0xFF1#16 State.reset) =
      some (.halted ⟨.memReadOutOfRange, 0x200#16, some 0x1000, none⟩, 0x200#16) := by decide

/-! ## The cycle, the timers, boot -/

/-- S9: an unmatched word. -/
theorem test_unmatched_s9 :
    after 0x0123 State.reset (fun t => (t.pc, t.log)) = some (0x202#16, [.unmatched 0x0123#16 0x200#16]) := by decide

/-- V2 (its first cycle), V4. -/
theorem test_fetch_v2_v4 :
    after 0x7001 (State.reset.setPc 0xFFE#16) (fun t => (t.reg 0, t.pc)) = some (1#8, 0x1000#16) ∧
    after 0x6107 (State.reset.setPc 0x201#16) (fun t => (t.reg 1, t.pc)) = some (7#8, 0x203#16) := by decide

/-- V3. -/
theorem test_fetch_at_4095_v3 :
    step ((State.reset.setPc 0xFFF#16).setSchedule [.mainLoop]) =
      .next (haltedAt (State.reset.setPc 0xFFF#16) ⟨.pcOutOfRange, 0xFFF#16, none, none⟩) := rfl

/-- T1, T2, T3. -/
theorem test_tick_t1_t2_t3 :
    (tick (State.reset.setDt 1#8)).dt = 0#8 ∧ (tick State.reset).dt = 0#8 ∧ (tick (State.reset.setDt 0xFF#8)).dt = 0xFE#8 := by decide

/-- DT, pc and the schedule after a run of `k` steps. -/
def timerAfter (k : Nat) (s : State) : Option (Byte × Word × List Move) :=
  match Sys2Proof.core.run k s with
  | .next t => some (t.dt, t.pc, t.schedule)
  | _ => none

/-- R259: an empty schedule is a cycle, then a tick, then empty again. -/
theorem test_empty_schedule_is_a_round :
    timerAfter 1 (State.reset.setDt 5#8) = some (5#8, 0x202#16, [.tick]) ∧
    timerAfter 2 (State.reset.setDt 5#8) = some (4#8, 0x202#16, []) := by decide

/-- R219, R252: an image one byte too long, an unreadable one, no configuration. -/
theorem test_boot_errors :
    (∀ image : List Byte, image.length = 3585 → boot hardwareConfig (some image) (some ⟨none⟩) = .failed .romTooLarge) ∧
    boot hardwareConfig none (some ⟨none⟩) = .failed .romUnreadable ∧
    boot hardwareConfig (some []) none = .failed .configUnavailable :=
  ⟨fun image h => by simp [boot, h], rfl, rfl⟩

/-- R251: the first bytes of P1's image, loaded at 512, and a glyph of the font beside it. -/
def bootedByte (a : Nat) : Option Byte :=
  match boot hardwareConfig (some [0x60, 0x00, 0x61, 0x05]) (some ⟨some false⟩) with
  | .started s => some (s.readByte a)
  | .failed _ => none

theorem test_boot_loads_at_512 :
    bootedByte 0x200 = some 0x60#8 ∧ bootedByte 0x203 = some 0x05#8 ∧ bootedByte 0x204 = some 0#8 ∧
    bootedByte 0x069 = some 0xF0#8 := by decide

/-! ## Witnesses: for each obligation with hypotheses, states and operands that meet them -/

/-- The reset state with the word `w` at `pc`, which is `a`. -/
def atWord (a : Word) (w : Nat) (s : State) : State := (s.setPc a).withFetchWord 16 w

/-- The hypotheses of a statement about a cycle that runs `i`. -/
abbrev RunsAt (s : State) (i : Instr) : Prop :=
  (s.status = .running ∧ s.nextMove = .mainLoop) ∧ s.pc.toNat ≤ 4094 ∧ decode (wordAtPc s) = .instr i

theorem witness_DecodeOfEncodeIsTheInstruction : (Instr.drw 15 15 15).wf = true := by decide

theorem witness_EncodeOfDecodeIsTheWord : decode 0xFF65#16 = .instr (.ldVMem 15) := by decide

theorem witness_DecodeAgreesWithTheOpcodeTable :
    decode 0x8FFE#16 = .instr (.shl 15 15) ∧ ⟨19, 0xF00F#16, 0x800E#16⟩ ∈ opcodeTable ∧
    OpcodeRow.covers ⟨19, 0xF00F#16, 0x800E#16⟩ 0x8FFE#16 := by decide

theorem witness_StepRunsTheDecodedInstruction : RunsAt (atWord 0xFFE#16 0x7001 State.reset) (.addImm 0 1) := by decide

theorem witness_UnmatchedWordIsALoggedNoOp :
    MainLoopTurn (atWord 0xFFE#16 0xFFFF State.reset) ∧
    decode (wordAtPc (atWord 0xFFE#16 0xFFFF State.reset)) = .unmatched (wordAtPc (atWord 0xFFE#16 0xFFFF State.reset)) :=
  ⟨⟨rfl, rfl⟩, by decide⟩

theorem witness_FetchAbove4094IsFatal :
    MainLoopTurn (State.reset.setPc 0xFFF#16) ∧ (State.reset.setPc 0xFFF#16).pc.toNat > 4094 := ⟨⟨rfl, rfl⟩, by decide⟩

theorem witness_RunningCoreAlwaysHasANextState :
    State.reset.status = .running ∧ State.reset.nextMove ≠ .quit := by decide

/-- A core halted by a stack underflow at 0x200. -/
def haltedCore : State := haltedAt State.reset ⟨.stackUnderflow, 0x200#16, none, none⟩

theorem witness_HaltedCoreNeverResumes :
    haltedCore.nextMove = .mainLoop ∧ Steps 2 (haltedCore.setSchedule [.tick, .tick]) haltedCore := by
  refine ⟨rfl, (steps_succ ..).2 ⟨haltedCore.setSchedule [.tick], rfl, (steps_succ ..).2 ⟨haltedCore, rfl, (steps_zero ..).2 rfl⟩⟩⟩

theorem witness_FatalErrorsArePreciseAndRecorded :
    fatalRecord .ret State.reset ≠ none ∧
    fatalRecord (.call 0) (State.reset.setStack (List.replicate 16 0)) ≠ none ∧
    fatalRecord (.drw 0 1 1) (withI 0x1000#16 State.reset) ≠ none ∧
    fatalRecord (.ldVMem 0) (withI 0x1000#16 State.reset) ≠ none ∧
    fatalRecord (.ldB 0) (withI 0xFFE#16 State.reset) ≠ none ∧
    fatalRecord (.ldMemV 15) (withI 0xFF1#16 State.reset) ≠ none := by decide

theorem witness_EachInstructionRaisesOnlyItsReason :
    exec .ret State.reset = .next (haltedAt State.reset ⟨.stackUnderflow, 0x1FE#16, none, none⟩) := rfl

/-- One instruction of every constructor. -/
def everyInstr : List Instr :=
  [.cls, .ret, .jp 0, .call 0, .seImm 1 2, .sneImm 1 2, .seReg 1 2, .sneReg 1 2,
   .ldImm 1 2, .addImm 1 2, .ldReg 1 2, .orReg 1 2, .andReg 1 2, .xorReg 1 2, .addReg 1 2, .subReg 1 2,
   .shr 1 2, .subn 1 2, .shl 1 2, .ldI 0xFFF, .drw 1 2 15, .skp 1, .sknp 1, .ldVDt 1,
   .ldDtV 1, .ldStV 1, .addI 1, .ldVK 1, .ldF 1, .ldB 1, .ldMemV 15, .ldVMem 15]

theorem test_every_instr_has_all_rows : everyInstr.map Instr.row = List.range' 1 32 := by decide

/-- No fatal error: every instruction on one state, and the boundary of every check. -/
theorem witness_EveryInstructionCompletesWithinItsFrame :
    (∀ i ∈ everyInstr, fatalRecord i (withI 0xFF0#16 (State.reset.setStack [0x206#16])) = none) ∧
    fatalRecord (.call 0) (State.reset.setStack (List.replicate 15 0)) = none ∧
    fatalRecord (.drw 0 1 0) (withI 0xFFFF#16 State.reset) = none ∧
    fatalRecord (.drw 0 1 2) (withI 0xFFF#16 (withRegs [(1, 31)])) = none ∧
    fatalRecord (.ldB 0) (withI 0xFFD#16 State.reset) = none ∧
    fatalRecord (.ldVMem 0) (withI 0xFFF#16 State.reset) = none := by decide

theorem witness_ProgramCounterAfterEveryInstruction :
    fatalRecord (.ldMemV 15) (withI 0xFF0#16 State.reset) = none ∧
    fatalRecord .ret (State.reset.setStack [0x1000#16]) = none := by decide

theorem witness_InstructionsReadAndWriteOnlyTheirRegisters :
    writesReg .cls 0 = false ∧ readsReg hardwareConfig (.drw 1 2 15) vf = false ∧ writesReg (.drw 1 2 15) vf = true ∧
    fatalRecord (.drw 1 2 15) State.reset = none ∧ (State.reset.setKeys (keySet [15])).keys[15] = true := by decide

theorem witness_OnlyKeyInstructionsSeeTheKeys :
    (∀ x, Instr.cls ≠ .skp x) ∧ (∀ x, Instr.cls ≠ .sknp x) ∧ (∀ x, Instr.cls ≠ .ldVK x) := by decide

theorem witness_OnlyShiftsSeeTheQuirk : (∀ x y, Instr.cls ≠ .shr x y) ∧ (∀ x y, Instr.cls ≠ .shl x y) := by decide

theorem witness_NoStepWritesTheParametersOrTheKeys :
    step (State.reset.setSchedule [.tick]) = .next State.reset ∧
    ∀ k, (State.reset.setSchedule [.tick]).nextMove ≠ .keys k := ⟨rfl, fun _ => by simp [State.nextMove]⟩

/-- A state at the largest `pc`, on which a tick is a step. -/
theorem witness_EveryStepKeepsTheInvariant :
    ((State.reset.setPc 0x1002#16).setSchedule [.tick]).Inv ∧
    step ((State.reset.setPc 0x1002#16).setSchedule [.tick]) = .next (State.reset.setPc 0x1002#16) :=
  ⟨⟨by decide, ⟨List.Pairwise.nil, List.forall_mem_nil _⟩, by decide, List.forall_mem_nil _, by decide, fun _ h => nomatch h⟩,
    rfl⟩

theorem witness_BootMeetsTheInvariant :
    hardwareConfig.wf = true ∧ boot hardwareConfig (some []) (some ⟨none⟩) = .started State.reset := ⟨by decide, rfl⟩

theorem witness_BootLoadsTheImageOrRefusesIt :
    hardwareConfig.wf = true ∧ (List.replicate 3585 (0 : Byte)).length > 3584 ∧
    (List.replicate 3584 (0 : Byte)).length ≤ 3584 ∧ (List.replicate 3584 (7 : Byte))[3583]? = some 7 ∧
    hardwareConfig.fontData[79]? = some 0x80#8 := by
  refine ⟨by decide, ?_, ?_, ?_, by decide⟩
  · rw [List.length_replicate]; decide
  · rw [List.length_replicate]
  · rw [List.getElem?_replicate]; decide

theorem witness_MemoryAccessesAreCheckedWhole :
    (0 < 1 ∧ [(7 : Byte)].length = 1 ∧ 4095 + 1 - 1 ≤ 4095 ∧ 4096 + 1 - 1 > 4095) ∧
    (0 < 2 ∧ [(7 : Byte), 8].length = 2 ∧ 4094 + 2 - 1 ≤ 4095 ∧ 4095 + 2 - 1 > 4095) := by decide

theorem witness_MemoriesThatReadAlikeAreEqual :
    Memory.wf hardwareConfig [(0x050, 0x00#8), (0x200, 0x12#8), (4095, 0xFF#8)] := by decide

theorem witness_StoredRegistersAreFetchedAsCode :
    1 ≤ (1 : Reg).val ∧ (withI 0xFFE#16 State.reset).i.toNat + (1 : Reg).val ≤ 4095 := by decide

theorem witness_BlockMoveRoundTrip :
    (withI 0xFF0#16 State.reset).i.toNat + (15 : Reg).val ≤ 4095 ∧
    (withI 0xFF1#16 State.reset).i.toNat + (15 : Reg).val > 4095 := by decide

theorem witness_TickDecrementsAndClampsAtZero :
    (State.reset.setSchedule [.tick]).nextMove = .tick ∧ (haltedCore.setSchedule [.tick]).nextMove = .tick := ⟨rfl, rfl⟩

theorem witness_TicksNeverTakeTheTimerBelowZero :
    (State.reset.setSchedule [.tick, .tick, .tick]).schedule = List.replicate 3 .tick ++ [] := rfl

/-- A core at a jump to itself, its schedule empty. -/
def spinning : State := atWord 0xFFE#16 0x1FFE State.reset

/-- The endless run of `step` from there: cycles and ticks in turn. -/
def spin (n : Nat) : State := if n % 2 = 0 then spinning else spinning.setSchedule [.tick]

/-- The moves of that run. -/
def spinMoves (n : Nat) : Move := if n % 2 = 0 then .mainLoop else .tick

theorem spin_endless : EndlessRun spin := by
  intro n
  rcases Nat.mod_two_eq_zero_or_one n with h | h
  · rw [spin, if_pos h, spin, if_neg (by omega)]
    rfl
  · rw [spin, if_neg (by omega), spin, if_pos (by omega)]
    rfl

theorem spin_execution : Execution spin spinMoves := by
  intro n
  rcases Nat.mod_two_eq_zero_or_one n with h | h
  · rw [spinMoves, if_pos h, spin, if_pos h, spin, if_neg (by omega)]
    rfl
  · rw [spinMoves, if_neg (by omega), spin, if_neg (by omega), spin, if_pos (by omega)]
    rfl

theorem spin_fair : Fair spin spinMoves where
  ticker n := ⟨2 * n + 1, by omega, if_neg (by omega)⟩
  mainLoop n _ := ⟨2 * n, by omega, if_pos (by omega)⟩

/-- FX15 and then FX07 in the last words of memory that both can be fetched from. -/
def setThenRead : State := withBytes 0xFFC [0xF3, 0x15, 0xF4, 0x07] ((withRegs [(3, 0x3C)]).setPc 0xFFC#16)

theorem witness_TickBeforeOrAfterTheRead :
    RunsAt (atWord 0xFFE#16 0xFF07 (State.reset.setDt 0x3C#8)) (.ldVDt 15) ∧
    (setThenRead.status = .running ∧ setThenRead.pc.toNat ≤ 4092 ∧ decode (wordAtPc setThenRead) = .instr (.ldDtV 3) ∧
      decode (wordAtPc (setThenRead.setPc (setThenRead.pc + 2))) = .instr (.ldVDt 4)) ∧
    Execution spin spinMoves := ⟨by decide, by decide, spin_execution⟩

theorem witness_DelayTimerRisesOnlyByItsWrite :
    (∃ t, step (atWord 0x200#16 0xF315 (withRegs [(3, 0x3C)])) = .next t ∧ t.dt = 0x3C#8) ∧
    Execution spin spinMoves ∧ Fair spin spinMoves ∧
    ∀ m, 0 ≤ m → ¬ (spinMoves m = .mainLoop ∧ (spin m).pc.toNat ≤ 4094 ∧
      ∃ x, decode (wordAtPc (spin m)) = .instr (.ldDtV x)) := by
  refine ⟨⟨_, rfl, by decide⟩, spin_execution, spin_fair, fun m _ => ?_⟩
  rintro ⟨-, -, x, hx⟩
  have h : decode (wordAtPc (spin m)) = .instr (.jp 0xFFE#12) := by
    unfold spin
    split <;> decide
  rw [h] at hx
  cases hx

theorem witness_SoundTimerChangesOnlyByItsWrite :
    ∃ t, step (atWord 0x200#16 0xF318 (withRegs [(3, 0x3C)])) = .next t ∧ t.st = 0x3C#8 ∧
      (atWord 0x200#16 0xF318 (withRegs [(3, 0x3C)])).cfg.soundTimerDecays = false := ⟨_, rfl, by decide, rfl⟩

theorem witness_HostMovesChangeOnlyTheKeys :
    (State.reset.setSchedule [.keys (keySet [15])]).nextMove = .keys (keySet [15]) ∧
    (State.reset.setSchedule [.quit]).nextMove = .quit := ⟨rfl, rfl⟩

theorem witness_RetPopsIntoThePc :
    (State.reset.setStack [0x206#16]).stack = [] ++ [0x206#16] ∧ State.reset.sp = 0 := by decide

theorem witness_CallPushesTheReturnAddress :
    (State.reset.setStack (List.replicate 15 0)).sp < State.reset.cfg.stackDepth ∧
    (State.reset.setStack (List.replicate 16 0)).sp = State.reset.cfg.stackDepth := by decide

theorem witness_CallThenReturnComesBack :
    (State.reset.setStack (List.replicate 15 0)).sp < State.reset.cfg.stackDepth := by decide

theorem witness_KeySkips :
    ((withRegs [(3, 15)]).reg 3).toNat = (15 : Fin 16).val ∧ ((withRegs [(3, 16)]).reg 3).toNat > 15 := by decide

theorem witness_ShiftsMoveOneBitIntoVF :
    (0x81 : Nat) = (if State.reset.cfg.shiftIgnoresY then ((withRegs [(1, 0x81)]).reg 1).toNat else 0) ∧
    (noQuirk State.reset).cfg.shiftIgnoresY = false := by decide

theorem witness_DrawXorsTheSpriteAndReportsCollision :
    rowsOf (withI 0xFFFF#16 State.reset) 2 0 = 0 ∧
    (withI 0xFFE#16 (withRegs [(2, 30)])).i.toNat + rowsOf (withI 0xFFE#16 (withRegs [(2, 30)])) 2 15 - 1 ≤ 4095 := by decide

theorem witness_DrawReadsAndChecksExactlyItsRows :
    0 < rowsOf (withI 0xFFF#16 (withRegs [(2, 30)])) 2 2 ∧
    (withI 0xFFF#16 (withRegs [(2, 30)])).i.toNat + rowsOf (withI 0xFFF#16 (withRegs [(2, 30)])) 2 2 - 1 > 4095 := by decide

theorem witness_DrawingTwiceRestoresTheFramebuffer :
    (withI 0xFFE#16 State.reset).i.toNat + rowsOf (withI 0xFFE#16 State.reset) 2 2 - 1 ≤ 4095 ∧
    ((withRegs [(1, 64), (2, 32)]).v)[(1 : Reg).val].toNat % 64 = (State.reset.reg 1).toNat % 64 ∧
    ((withRegs [(1, 64), (2, 32)]).v)[(2 : Reg).val].toNat % 32 = (State.reset.reg 2).toNat % 32 := by decide

theorem witness_KeyWaitSpinsOrTakesTheLowestKey :
    (∀ k : Fin 16, State.reset.keys[k.val] = false) ∧
    (State.reset.setKeys (keySet [15])).keys[15] = true ∧
    (∀ j : Fin 16, j < 15 → (State.reset.setKeys (keySet [15])).keys[j.val] = false) := by decide

theorem witness_LdFPointsAtTheGlyph : ({ hardwareConfig with fontBase := 432 } : Config).wf = true := by decide

theorem witness_GlyphBytesStandWhereLdFPoints :
    (State.reset.cfg.wf = true ∧
      ∀ k, k < 80 → State.reset.cfg.fontData[k]? = some (State.reset.readByte (State.reset.cfg.fontBase + k))) ∧
    hardwareConfig.wf = true ∧ ∃ s, boot hardwareConfig (some [0xFF]) (some ⟨some true⟩) = .started s :=
  ⟨by decide, by decide, _, rfl⟩

theorem witness_LdBStoresTheDecimalDigits :
    (withI 0xFFD#16 State.reset).i.toNat + 2 ≤ 4095 ∧ (withI 0xFFE#16 State.reset).i.toNat + 2 > 4095 := by decide

theorem witness_BlockStoreWritesTheRegisters :
    (withI 0xFF0#16 State.reset).i.toNat + (15 : Reg).val ≤ 4095 ∧
    (withI 0xFF1#16 State.reset).i.toNat + (15 : Reg).val > 4095 := by decide

theorem witness_BlockLoadReadsTheRegisters :
    (withI 0xFFF#16 State.reset).i.toNat + (0 : Reg).val ≤ 4095 ∧
    (withI 0x1000#16 State.reset).i.toNat + (0 : Reg).val > 4095 := by decide

theorem witness_JumpToSelfRunsForEver :
    (spinning.status = .running ∧ spinning.atEnd 0xFFE#12 ∧ .quit ∉ spinning.schedule) ∧ EndlessRun spin :=
  ⟨⟨rfl, ⟨rfl, by decide⟩, by decide⟩, spin_endless⟩

end Sys2Proof.Tests
end

section
/-! SUPPORT. What an instruction may change, as rules: one per update of the state, chained for each instruction. -/

namespace Sys2Proof.Machine

open Sys2Proof.Claims

/-- From `s` to `t` only what `c` names has changed, and a canonical memory has stayed canonical (R50). -/
structure Within (c : MayChange) (s t : State) : Prop extends Frame c s t where
  mem_wf : Memory.wf s.cfg s.mem → Memory.wf s.cfg t.mem

theorem Within.refl (c : MayChange) (s : State) : Within c s s := by
  refine ⟨?_, id⟩
  constructor <;> simp

section
variable {c : MayChange} {s t : State}

theorem Within.setReg (h : Within c s t) {x : Reg} (hx : c.reg x = true) (b : Byte) : Within c s (t.setReg x b) where
  __ := h
  reg r hr := by
    have hne : r ≠ x := by
      rintro rfl
      simp [hx] at hr
    rw [State.reg_setReg_ne _ _ _ _ hne, h.reg r hr]

theorem Within.setV (h : Within c s t) {v : Vector Byte 16} (hv : ∀ r, c.reg r = false → v[r.val] = t.reg r) :
    Within c s (t.setV v) where
  __ := h
  reg r hr := (hv r hr).trans (h.reg r hr)

theorem Within.setPc (h : Within c s t) (hc : c.pc = true) (a : Word) : Within c s (t.setPc a) where
  __ := h
  pc hf := absurd hc (by simp [hf])

theorem Within.setI (h : Within c s t) (hc : c.i = true) (a : Word) : Within c s (t.setI a) where
  __ := h
  i hf := absurd hc (by simp [hf])

theorem Within.setDt (h : Within c s t) (hc : c.dt = true) (b : Byte) : Within c s (t.setDt b) where
  __ := h
  dt hf := absurd hc (by simp [hf])

theorem Within.setSt (h : Within c s t) (hc : c.st = true) (b : Byte) : Within c s (t.setSt b) where
  __ := h
  st hf := absurd hc (by simp [hf])

theorem Within.setStack (h : Within c s t) (hc : c.stack = true) (l : List Word) : Within c s (t.setStack l) where
  __ := h
  stack hf := absurd hc (by simp [hf])

theorem Within.setFb (h : Within c s t) (hc : c.fb = true) (fb : Framebuffer) : Within c s (t.setFb fb) where
  __ := h
  fb hf := absurd hc (by simp [hf])

/-- V[X], then the flag in VF (R131). -/
theorem Within.setResultAndFlag (h : Within c s t) {x : Reg} (hx : c.reg x = true) (hvf : c.reg vf = true) (b : Byte)
    (f : Bool) : Within c s (t.setResultAndFlag x b f) :=
  (h.setReg hx b).setReg hvf _

theorem Within.skipIf (h : Within c s t) (hc : c.pc = true) (b : Bool) : Within c s (t.skipIf b) := by
  rw [State.skipIf_eq]
  exact h.setPc hc _

/-- A block write inside memory (R52). -/
theorem Within.writeBlock {a : Nat} {bytes : List Byte} (ha : a + bytes.length ≤ 4096)
    (hc : ∀ x, c.byte x = false → ¬ (a ≤ x ∧ x < a + bytes.length)) :
    Within c s (s.setMem (Memory.writeBlock s.cfg a bytes s.mem)) where
  __ := Within.refl c s
  byte x hx := by rw [State.readByte_setMem_writeBlock, dif_neg (hc x hx)]
  mem_wf := Memory.wf_writeBlock _ _ _ _ ha

end

end Sys2Proof.Machine
end

section
/-! SUPPORT. The two ways an instruction can end, said once: the fatal error of the table of R211, or its completed state. -/

namespace Sys2Proof.Machine

open Sys2Proof.Claims

/-- `i` on `s` raises the fatal error the table names and, where it names none, completes in `t`. -/
def FatalOr (i : Instr) (s t : State) : Prop :=
  (∃ r, fatalRecord i s = some r ∧ exec i s = .next (haltedAt s r)) ∨ (fatalRecord i s = none ∧ exec i s = .next t)

theorem FatalOr.next {i : Instr} {s t : State} (h : FatalOr i s t) (hn : fatalRecord i s = none) : exec i s = .next t := by
  obtain ⟨r, hr, -⟩ | ⟨-, h⟩ := h
  · rw [hn] at hr
    cases hr
  · exact h

theorem FatalOr.fatal {i : Instr} {s t : State} (h : FatalOr i s t) {r : FaultRecord} (hr : fatalRecord i s = some r) :
    exec i s = .next (haltedAt s r) := by
  obtain ⟨r', hr', h⟩ | ⟨hn, -⟩ := h
  · rw [hr] at hr'
    cases hr'
    exact h
  · rw [hr] at hn
    cases hn

/-- 00EE (R101). -/
theorem ret_fatalOr (s : State) :
    FatalOr .ret s ((s.setStack s.stack.dropLast).setPc (pcAfter .ret s)) := by
  obtain ⟨h, hp⟩ | ⟨rest, v, h, hp⟩ := s.pop_cases
  · exact .inl ⟨_, by simp [fatalRecord, h]; rfl, by simp only [exec, execRet, hp]; rfl⟩
  · exact .inr ⟨by simp [fatalRecord, h], by simp [exec, execRet, hp, pcAfter, h]⟩

/-- 2NNN (R103). -/
theorem call_fatalOr (nnn : Addr12) (s : State) :
    FatalOr (.call nnn) s ((s.setStack (s.stack ++ [s.pc])).setPc (zext16 nnn)) := by
  obtain ⟨h, hp⟩ | ⟨h, hp⟩ := s.push_cases s.pc <;> rw [State.sp] at h
  · exact .inr ⟨by simp [fatalRecord]; omega, by simp only [exec, execCall, hp]⟩
  · exact .inl ⟨_, by simp [fatalRecord, h]; rfl, by simp only [exec, execCall, hp]; rfl⟩

/-- What DXYN draws: its rows from I on, on the framebuffer (R151). -/
def State.sprite (s : State) (x y : Reg) (n : Nat) : Drawing :=
  drawRows (s.startColumn x) (s.startRow y) ((List.range (s.drawnRows y n)).map fun k => s.readByte (s.i.toNat + k))
    { fb := s.fb, collision := false }

theorem rowsOf_eq (s : State) (y : Reg) (n : Nat) : rowsOf s y n = s.drawnRows y n := rfl

/-- DXYN (R151, R152). -/
theorem drw_fatalOr (x y : Reg) (n : Nat) (s : State) :
    FatalOr (.drw x y n) s ((s.setFb (s.sprite x y n).fb).setReg vf (flagByte (s.sprite x y n).collision)) := by
  obtain ⟨h, hm⟩ | ⟨h0, h, hm⟩ := s.memRead_cases s.i.toNat (s.drawnRows y n)
  · exact .inr ⟨by simp [fatalRecord, rowsOf_eq]; omega, by simp only [exec, execDrw, hm]; rfl⟩
  · refine .inl ⟨_, if_pos ⟨h0, by rw [rowsOf_eq]; omega⟩, by simp only [exec, execDrw, hm]; rfl⟩

/-- FX65 (R188). -/
theorem ldVMem_fatalOr (x : Reg) (s : State) :
    FatalOr (.ldVMem x) s (s.setV (setRegsFrom 0
      ((List.range (x.val + 1)).map fun k => s.readByte (s.i.toNat + k)) s.v)) := by
  obtain ⟨h, hm⟩ | ⟨h0, h, hm⟩ := s.memRead_cases s.i.toNat (x.val + 1)
  · exact .inr ⟨by simp [fatalRecord]; omega, by simp only [exec, execLdVMem, hm]⟩
  · exact .inl ⟨_, if_pos (by omega), by simp only [exec, execLdVMem, hm]; rfl⟩

/-- FX33 (R186). -/
theorem ldB_fatalOr (x : Reg) (s : State) :
    FatalOr (.ldB x) s (s.setMem (Memory.writeBlock s.cfg s.i.toNat (bcdDigits (s.reg x)) s.mem)) := by
  have hl : (bcdDigits (s.reg x)).length = 3 := rfl
  obtain ⟨h, hm⟩ | ⟨h, hm⟩ := s.memWrite_cases s.i.toNat (bcdDigits (s.reg x)) (by omega) <;> rw [hl] at h
  · exact .inr ⟨by simp [fatalRecord]; omega, by simp only [exec, execLdB, hm]⟩
  · exact .inl ⟨_, if_pos (by omega), by simp only [exec, execLdB, hm]; rfl⟩

/-- FX55 (R187). -/
theorem ldMemV_fatalOr (x : Reg) (s : State) :
    FatalOr (.ldMemV x) s (s.setMem (Memory.writeBlock s.cfg s.i.toNat (s.regsUpTo x) s.mem)) := by
  have hl := s.regsUpTo_length x
  obtain ⟨h, hm⟩ | ⟨h, hm⟩ := s.memWrite_cases s.i.toNat (s.regsUpTo x) (by omega) <;> rw [hl] at h
  · exact .inr ⟨by simp [fatalRecord]; omega, by simp only [exec, execLdMemV, hm]⟩
  · exact .inl ⟨_, if_pos (by omega), by simp only [exec, execLdMemV, hm]; rfl⟩

/-- A fatal error discards the instruction's writes (R94, R212). -/
theorem exec_fatal {i : Instr} {s : State} {r : FaultRecord} (h : fatalRecord i s = some r) :
    exec i s = .next (haltedAt s r) := by
  cases i
  case ret => exact (ret_fatalOr s).fatal h
  case call nnn => exact (call_fatalOr nnn s).fatal h
  case drw x y n => exact (drw_fatalOr x y n s).fatal h
  case ldB x => exact (ldB_fatalOr x s).fatal h
  case ldMemV x => exact (ldMemV_fatalOr x s).fatal h
  case ldVMem x => exact (ldVMem_fatalOr x s).fatal h
  all_goals cases h

/-- FX0A by the lowest key down, if there is one (R184). -/
theorem exec_ldVK (x : Reg) (s : State) :
    exec (.ldVK x) s =
      .next ((KeySet.lowest s.keys).elim (s.setPc (s.pc - 2)) fun k => s.setReg x (BitVec.ofNat 8 k)) := by
  simp only [exec, execLdVK]
  cases KeySet.lowest s.keys <;> rfl

/-- An instruction on which the table names no fatal error completes in a state that only its own rules have changed. -/
theorem exec_within {i : Instr} {s : State} (hn : fatalRecord i s = none) :
    ∃ t, exec i s = .next t ∧ Within (mayChange i s) s t := by
  have refl := Within.refl (mayChange i s) s
  cases i
  case cls => exact ⟨_, rfl, refl.setFb rfl _⟩
  case ret => exact ⟨_, (ret_fatalOr s).next hn, (refl.setStack rfl _).setPc rfl _⟩
  case jp => exact ⟨_, rfl, refl.setPc rfl _⟩
  case call nnn => exact ⟨_, (call_fatalOr nnn s).next hn, (refl.setStack rfl _).setPc rfl _⟩
  case seImm | sneImm | seReg | sneReg | skp | sknp => exact ⟨_, rfl, refl.skipIf rfl _⟩
  case ldImm | addImm | ldReg | orReg | andReg | xorReg | ldVDt =>
    exact ⟨_, rfl, refl.setReg (by simp [mayChange, writesReg]) _⟩
  case addReg | subReg | shr | subn | shl =>
    exact ⟨_, rfl, refl.setResultAndFlag (by simp [mayChange, writesReg]) (by simp [mayChange, writesReg]) _ _⟩
  case ldI | ldF => exact ⟨_, rfl, refl.setI rfl _⟩
  case addI => exact ⟨_, rfl, (refl.setI rfl _).setReg rfl _⟩
  case ldDtV => exact ⟨_, rfl, refl.setDt rfl _⟩
  case ldStV => exact ⟨_, rfl, refl.setSt rfl _⟩
  case drw x y n => exact ⟨_, (drw_fatalOr x y n s).next hn, (refl.setFb rfl _).setReg rfl _⟩
  case ldVK x =>
    refine ⟨_, exec_ldVK x s, ?_⟩
    cases KeySet.lowest s.keys
    · exact refl.setPc rfl _
    · exact refl.setReg (by simp [mayChange, writesReg]) _
  case ldVMem x =>
    refine ⟨_, (ldVMem_fatalOr x s).next hn, refl.setV fun r hr => ?_⟩
    simp only [mayChange, writesReg, decide_eq_false_iff_not, Fin.le_def] at hr
    rw [setRegsFrom_getElem, dif_neg (by simp; omega)]
    rfl
  case ldB x =>
    have hrange := hn
    simp only [fatalRecord, ite_eq_right_iff, reduceCtorEq, imp_false] at hrange
    refine ⟨_, (ldB_fatalOr x s).next hn, Within.writeBlock ?_ fun a ha => ?_⟩
    · simp [bcdDigits]; omega
    · simp only [mayChange, storesByte, decide_eq_false_iff_not] at ha
      simp [bcdDigits]; omega
  case ldMemV x =>
    have hrange := hn
    simp only [fatalRecord, ite_eq_right_iff, reduceCtorEq, imp_false] at hrange
    refine ⟨_, (ldMemV_fatalOr x s).next hn, Within.writeBlock ?_ fun a ha => ?_⟩
    · simp; omega
    · simp only [mayChange, storesByte, decide_eq_false_iff_not] at ha
      simp; omega

theorem within_of_exec {i : Instr} {s t : State} (hn : fatalRecord i s = none) (h : exec i s = .next t) :
    Within (mayChange i s) s t := by
  obtain ⟨t', h', hw⟩ := exec_within hn
  rw [h] at h'
  cases h'
  exact hw

/-- Everything an instruction can do: its fatal error, or a completed state within its frame. -/
theorem exec_cases {i : Instr} {s t : State} (h : exec i s = .next t) :
    (∃ r, fatalRecord i s = some r ∧ t = haltedAt s r) ∨ (fatalRecord i s = none ∧ Within (mayChange i s) s t) := by
  cases hr : fatalRecord i s with
  | some r =>
    rw [exec_fatal hr] at h
    cases h
    exact .inl ⟨r, rfl, rfl⟩
  | none => exact .inr ⟨rfl, within_of_exec hr h⟩

/-- No instruction stops the model (R87). -/
theorem exec_total (i : Instr) (s : State) : ∃ t, exec i s = .next t := by
  cases hr : fatalRecord i s with
  | some r => exact ⟨_, exec_fatal hr⟩
  | none => exact (exec_within hr).imp fun _ h => h.1

end Sys2Proof.Machine
end

section
/-! SUPPORT. `pc` after each instruction (spec/10_state.md R25). -/

namespace Sys2Proof.Machine

open Sys2Proof.Claims

/-- Key `k` is held exactly when a key id of that number is pressed (R172). -/
theorem KeySet.held_iff (ks : KeySet) (k : Nat) : KeySet.held ks k = true ↔ ∃ j : Fin 16, j.val = k ∧ ks[j.val] = true := by
  unfold KeySet.held
  constructor
  · intro h
    split at h
    · exact ⟨⟨k, ‹_›⟩, rfl, h⟩
    · cases h
  · rintro ⟨j, rfl, h⟩
    rw [dif_pos j.isLt]
    exact h

/-- There is a lowest key down exactly when some key is (R184). -/
theorem KeySet.lowest_isSome_iff (ks : KeySet) :
    (KeySet.lowest ks).isSome = true ↔ ∃ k : Fin 16, ks[k.val] = true := by
  rw [← not_iff_not, Option.not_isSome_iff_eq_none, KeySet.lowest_eq_none]
  constructor
  · rintro h ⟨k, hk⟩
    have := (KeySet.held_iff ks k.val).2 ⟨k, rfl, hk⟩
    simp [h] at this
  · intro h k
    rw [← Bool.not_eq_true, KeySet.held_iff]
    rintro ⟨j, -, hj⟩
    exact h ⟨j, hj⟩

theorem zext16_eq (nnn : Addr12) : zext16 nnn = nnn.setWidth 16 :=
  BitVec.eq_of_toNat_eq (by simp [zext16])

/-- A skip lands on `a + 4`, which is 2 past the pre-advanced `pc` (R92). -/
@[simp] theorem sub_two_add_four (w : Word) : w - 2#16 + 4#16 = w + 2#16 := by
  bv_omega

theorem pcAfter_of_not_changesPc {i : Instr} (h : changesPc i = false) (s : State) : pcAfter i s = s.pc := by
  cases i
  case ret | jp | call | seImm | sneImm | seReg | sneReg | skp | sknp | ldVK => cases h
  all_goals exact sub_add_cancel s.pc 2

/-- A completed instruction leaves the `pc` of the table of R25. -/
theorem exec_pc {i : Instr} {s t : State} (hn : fatalRecord i s = none) (h : exec i s = .next t) : t.pc = pcAfter i s := by
  cases hc : changesPc i with
  | false => rw [(within_of_exec hn h).pc hc, pcAfter_of_not_changesPc hc]
  | true =>
    cases i
    case ret =>
      rw [(ret_fatalOr s).next hn] at h
      cases h
      rfl
    case jp nnn =>
      cases h
      exact zext16_eq nnn
    case call nnn =>
      rw [(call_fatalOr nnn s).next hn] at h
      cases h
      exact zext16_eq nnn
    case seImm | sneImm | seReg | sneReg =>
      cases h
      simp [State.skipIf_eq, pcAfter]
    case skp x | sknp x =>
      cases h
      simp only [State.skipIf_eq, pcAfter, ← KeySet.held_iff]
      cases KeySet.held s.keys (s.reg x).toNat <;> simp
    case ldVK x =>
      rw [exec_ldVK] at h
      cases h
      simp only [pcAfter, ← KeySet.lowest_isSome_iff]
      cases KeySet.lowest s.keys <;> simp
    all_goals cases hc

end Sys2Proof.Machine
end

section
/-! SUPPORT. Everything a step can do, agent by agent (spec/60_exceptions.md R225 to R228). -/

namespace Sys2Proof.Machine

open Sys2Proof.Claims

/-- What a step from `s` answers. -/
inductive StepCase (s : State) : State → Prop where
  /-- The main loop cannot fetch (R91). -/
  | fetchFault (hm : MainLoopTurn s) (hpc : s.pc.toNat > 4094) :
    StepCase s (haltedAt s.popMove ⟨.pcOutOfRange, s.pc, none, none⟩)
  /-- The main loop runs an instruction (R90, R92). -/
  | instr (hm : MainLoopTurn s) (hpc : s.pc.toNat ≤ 4094) (i : Instr) (hd : decode (wordAtPc s) = .instr i) (t : State)
    (h : exec i s.popMove.advance = .next t) : StepCase s t
  /-- The main loop runs an unmatched word (R86). -/
  | unmatched (hm : MainLoopTurn s) (hpc : s.pc.toNat ≤ 4094) (w : Word) : StepCase s (execUnmatched w s.popMove.advance)
  /-- The ticker ticks (R226). -/
  | tick (hm : s.nextMove = .tick) : StepCase s (tick s.popMove)
  /-- The host changes the keys (R233). -/
  | keys (k : KeySet) (hm : s.nextMove = .keys k) : StepCase s (s.popMove.setKeys k)

theorem runCycle_cases {s t : State} (hm : MainLoopTurn s) (h : runCycle s.popMove = .next t) : StepCase s t := by
  unfold runCycle at h
  obtain ⟨hpc, hf⟩ | ⟨hpc, hf⟩ := s.popMove.fetchWord_cases <;> simp only [hf] at h
  · change executeDecoded (decode (wordAtPc s)) s.popMove.advance = .next t at h
    cases hd : decode (wordAtPc s) with
    | instr i =>
      rw [hd] at h
      exact .instr hm hpc i hd t h
    | unmatched w =>
      rw [hd] at h
      cases h
      exact .unmatched hm hpc w
  · cases h
    exact .fetchFault hm hpc

theorem step_cases {s t : State} (h : step s = .next t) : StepCase s t := by
  unfold step at h
  obtain ⟨hm, hs, e⟩ | ⟨r, hm, hs, e⟩ | ⟨hm, e⟩ | ⟨k, hm, e⟩ | ⟨hm, e⟩ := takeMove_cases s.nextMove s.popMove <;> rw [e] at h
  · exact runCycle_cases ⟨hs, hm⟩ h
  · cases h
  · cases h
    exact .tick hm
  · cases h
    exact .keys k hm
  · cases h

/-! ## What no instruction changes -/

theorem exec_cfg {i : Instr} {s t : State} (h : exec i s = .next t) : t.cfg = s.cfg := by
  obtain ⟨r, -, rfl⟩ | ⟨-, hw⟩ := exec_cases h
  · rfl
  · exact hw.cfg

theorem exec_keys {i : Instr} {s t : State} (h : exec i s = .next t) : t.keys = s.keys := by
  obtain ⟨r, -, rfl⟩ | ⟨-, hw⟩ := exec_cases h
  · rfl
  · exact hw.keys

/-- No instruction but FX18 changes ST (R33). -/
theorem exec_st {i : Instr} {s t : State} (hi : changesSt i = false) (h : exec i s = .next t) : t.st = s.st := by
  obtain ⟨r, -, rfl⟩ | ⟨-, hw⟩ := exec_cases h
  · rfl
  · exact hw.st hi

theorem changesSt_iff (i : Instr) : changesSt i = true ↔ ∃ x, i = .ldStV x := by
  cases i <;> simp [changesSt]

end Sys2Proof.Machine
end

section
/-! SUPPORT. The invariant, kept by each kind of step (spec/10_state.md R26, R35, R42; spec/20_memory.md R50). -/

namespace Sys2Proof.Machine

open Sys2Proof.Claims

/-- The invariant sees the parameters, the memory, the stack, `pc` and the halt status only. -/
theorem State.Inv.congr {s t : State} (h : s.Inv) (hcfg : t.cfg = s.cfg) (hmem : t.mem = s.mem)
    (hstack : t.stack = s.stack) (hpc : t.pc = s.pc) (hstatus : t.status = s.status) : t.Inv := by
  obtain ⟨h1, h2, h3, h4, h5, h6⟩ := h
  constructor <;> simpa only [hcfg, hmem, hstack, hpc, hstatus]

/-- A fatal error with a record of R211 keeps it. -/
theorem State.Inv.haltedAt {s : State} (h : s.Inv) {r : FaultRecord} (hr : r.wellFormed s.cfg)
    (hpc : r.pcFault.toNat ≤ 0x1002) : (haltedAt s r).Inv where
  cfg_wf := h.cfg_wf
  mem_wf := h.mem_wf
  stack_depth := h.stack_depth
  stack_addr := h.stack_addr
  pc_bound := hpc
  halted_record q hq := by
    cases hq
    exact ⟨rfl, hr⟩

/-- `s` is running an instruction fetched from an address the fetch allows (R91, R92). -/
structure Executing (s : State) : Prop extends State.Inv s where
  running : s.status = .running
  fetched : (s.pc - 2).toNat ≤ 4094

/-- The records of the table of R211 are well formed. -/
theorem fatalRecord_wellFormed {s : State} (h : Executing s) {i : Instr} {r : FaultRecord} (hr : fatalRecord i s = some r) :
    r.pcFault = s.pc - 2 ∧ r.wellFormed s.cfg := by
  have hf := h.fetched
  have hd := h.stack_depth
  cases i
  case ret | drw | ldVMem | ldB | ldMemV =>
    obtain ⟨-, hr⟩ := Option.ite_none_right_eq_some.1 hr
    cases hr
    simpa [FaultRecord.wellFormed] using hf
  case call nnn =>
    obtain ⟨hs, hr⟩ := Option.ite_none_right_eq_some.1 hr
    cases hr
    simpa [FaultRecord.wellFormed, Nat.le_antisymm hd hs] using hf
  all_goals cases hr

/-- The largest value `pc` can hold is 0x1002 (R26): a skip at 0xFFE. -/
theorem pcAfter_bound {s : State} (h : Executing s) (i : Instr) : (pcAfter i s).toNat ≤ 0x1002 := by
  have hf := h.fetched
  have h4 : (s.pc - 2 + 4).toNat ≤ 0x1002 := by bv_omega
  have h2 : (s.pc - 2 + 2).toNat ≤ 0x1002 := by bv_omega
  cases i
  case seImm | sneImm | seReg | sneReg | skp | sknp =>
    simp only [pcAfter]
    split <;> assumption
  case ldVK =>
    simp only [pcAfter]
    split <;> omega
  case jp nnn | call nnn =>
    have := nnn.isLt
    simp [pcAfter]
    omega
  case ret =>
    simp only [pcAfter]
    cases hl : s.stack.getLast? with
    | none => simp; bv_omega
    | some v =>
      have := h.stack_addr v (List.mem_of_getLast? hl)
      simp; omega
  all_goals exact h2

/-- A completed instruction keeps the stack's depth and its return addresses (R35, R36). -/
theorem exec_stack {s t : State} (h : Executing s) {i : Instr} (hn : fatalRecord i s = none) (he : exec i s = .next t) :
    t.stack.length ≤ s.cfg.stackDepth ∧ ∀ v ∈ t.stack, v.toNat ≤ 4096 := by
  have hd := h.stack_depth
  have ha := h.stack_addr
  cases hc : changesStack i with
  | false =>
    rw [(within_of_exec hn he).stack hc]
    exact ⟨hd, ha⟩
  | true =>
    cases i
    case ret =>
      rw [(ret_fatalOr s).next hn] at he
      cases he
      refine ⟨?_, fun v hv => ha v (List.mem_of_mem_dropLast hv)⟩
      simp
      omega
    case call nnn =>
      rw [(call_fatalOr nnn s).next hn] at he
      cases he
      have hpc : s.pc.toNat ≤ 4096 := by
        have := h.fetched
        bv_omega
      simp only [fatalRecord, ite_eq_right_iff, reduceCtorEq, imp_false] at hn
      refine ⟨by simp; omega, fun v hv => ?_⟩
      rcases List.mem_append.1 hv with hv | hv
      · exact ha v hv
      · rwa [List.mem_singleton.1 hv]
    all_goals cases hc

/-- An instruction keeps the invariant, whether it completes or raises its fatal error. -/
theorem exec_keeps_inv {s t : State} (h : Executing s) {i : Instr} (he : exec i s = .next t) : t.Inv := by
  obtain ⟨r, hr, rfl⟩ | ⟨hn, hw⟩ := exec_cases he
  · obtain ⟨hpc, hwf⟩ := fatalRecord_wellFormed h hr
    have := h.fetched
    exact h.toInv.haltedAt hwf (by rw [hpc]; omega)
  · obtain ⟨hdepth, haddr⟩ := exec_stack h hn he
    refine ⟨?_, ?_, ?_, haddr, ?_, fun r hr => ?_⟩
    · rw [hw.cfg]
      exact h.cfg_wf
    · rw [hw.cfg]
      exact hw.mem_wf h.mem_wf
    · rwa [hw.cfg]
    · rw [exec_pc hn he]
      exact pcAfter_bound h i
    · rw [hw.status, h.running] at hr
      cases hr

/-- A state whose fetch succeeds is executing once `pc` is advanced (R92). -/
theorem executing_advance {s : State} (h : s.Inv) (hm : MainLoopTurn s) (hpc : s.pc.toNat ≤ 4094) :
    Executing s.popMove.advance := by
  have hsub : s.pc + 2 - 2 = s.pc := add_sub_cancel_right s.pc 2
  have hst : s.popMove.advance.status = .running := hm.1
  refine ⟨⟨h.cfg_wf, h.mem_wf, h.stack_depth, h.stack_addr, ?_, fun r hr => ?_⟩, hst, ?_⟩
  · change (s.pc + 2).toNat ≤ 0x1002
    bv_omega
  · rw [hst] at hr
    cases hr
  · change (s.pc + 2 - 2).toNat ≤ 4094
    rwa [hsub]

end Sys2Proof.Machine
end

section
/-! SUPPORT. What no instruction but a few sees: the keys and SHIFT_IGNORES_Y (spec/10_state.md R39, R40). -/

namespace Sys2Proof.Machine

open Sys2Proof.Claims

/-- The state with its key state and SHIFT_IGNORES_Y changed. -/
def State.mapInputs (f : KeySet → KeySet) (q : Bool → Bool) (s : State) : State :=
  { s with keys := f s.keys, cfg := { s.cfg with shiftIgnoresY := q s.cfg.shiftIgnoresY } }

/-- EX9E, EXA1 and FX0A query the keys (R39). -/
def seesKeys : Instr → Bool
  | .skp _ | .sknp _ | .ldVK _ => true
  | _ => false

/-- 8XY6 and 8XYE look at SHIFT_IGNORES_Y (R40). -/
def seesQuirk : Instr → Bool
  | .shr _ _ | .shl _ _ => true
  | _ => false

/-- Memory does not depend on SHIFT_IGNORES_Y. -/
theorem Memory.writeBlock_shiftIgnoresY (cfg : Config) (b : Bool) (a : Nat) (bytes : List Byte) (m : Memory) :
    Memory.writeBlock { cfg with shiftIgnoresY := b } a bytes m = Memory.writeBlock cfg a bytes m := by
  induction bytes generalizing a m with
  | nil => rfl
  | cons x xs ih => exact ih (a + 1) _

theorem fatalRecord_mapInputs (i : Instr) (f : KeySet → KeySet) (q : Bool → Bool) (s : State) :
    fatalRecord i (s.mapInputs f q) = fatalRecord i s := by
  cases i <;> rfl

/-- An instruction changes neither input, and the result is the same but for the input it does not see. -/
theorem exec_mapInputs (i : Instr) (f : KeySet → KeySet) (q : Bool → Bool) (hf : seesKeys i = true → f = id)
    (hq : seesQuirk i = true → q = id) (s : State) :
    exec i (s.mapInputs f q) = mapNext (State.mapInputs f q) (exec i s) := by
  cases hr : fatalRecord i s with
  | some r =>
    rw [exec_fatal hr, exec_fatal ((fatalRecord_mapInputs i f q s).trans hr)]
    rfl
  | none =>
    have hr' := (fatalRecord_mapInputs i f q s).trans hr
    cases i
    case ret => rw [(ret_fatalOr _).next hr, (ret_fatalOr _).next hr']; rfl
    case call nnn => rw [(call_fatalOr nnn _).next hr, (call_fatalOr nnn _).next hr']; rfl
    case drw x y n => rw [(drw_fatalOr x y n _).next hr, (drw_fatalOr x y n _).next hr']; rfl
    case ldVMem x => rw [(ldVMem_fatalOr x _).next hr, (ldVMem_fatalOr x _).next hr']; rfl
    case ldB x =>
      rw [(ldB_fatalOr x _).next hr, (ldB_fatalOr x _).next hr', State.mapInputs, Memory.writeBlock_shiftIgnoresY]
      rfl
    case ldMemV x =>
      rw [(ldMemV_fatalOr x _).next hr, (ldMemV_fatalOr x _).next hr', State.mapInputs, Memory.writeBlock_shiftIgnoresY]
      rfl
    case shr | shl =>
      obtain rfl := hq rfl
      rfl
    case skp | sknp =>
      obtain rfl := hf rfl
      simp only [exec, execSkp, execSknp, State.skipIf_eq]
      rfl
    case ldVK x =>
      obtain rfl := hf rfl
      rw [exec_ldVK, exec_ldVK, State.mapInputs, id]
      cases KeySet.lowest s.keys <;> rfl
    case seImm | sneImm | seReg | sneReg =>
      simp only [exec, execSeImm, execSneImm, execSeReg, execSneReg, State.skipIf_eq]
      rfl
    all_goals rfl

end Sys2Proof.Machine
end

section
/-! SUPPORT. A register an instruction does not read (spec/10_state.md R22): its value reaches nothing but itself. -/

namespace Sys2Proof.Machine

open Sys2Proof.Claims

/-- `t` with `b` in register `r`, unless the register was overwritten on the way. -/
def State.keepReg (overwritten : Bool) (r : Reg) (b : Byte) (t : State) : State := if overwritten then t else t.setReg r b

/-- The registers an instruction that completes overwrites: its row of R22, and for FX0A only when a key is down (R184). -/
def overwrites (s : State) : Instr → Reg → Bool
  | .ldVK x, r => r == x && (KeySet.lowest s.keys).isSome
  | i, r => writesReg i r

theorem State.setReg_setReg_self (s : State) (r : Reg) (b c : Byte) : (s.setReg r b).setReg r c = s.setReg r c := by
  simp [State.setReg]

theorem State.setReg_comm (s : State) {r x : Reg} (h : r ≠ x) (b c : Byte) :
    (s.setReg r b).setReg x c = (s.setReg x c).setReg r b := by
  simp [State.setReg, Vector.set_comm _ _ (Fin.val_ne_of_ne h)]

/-- A register write after the register `r` was changed. -/
theorem State.setReg_keepReg (s : State) (r x : Reg) (b c : Byte) :
    (s.setReg r b).setReg x c = (s.setReg x c).keepReg (r == x) r b := by
  by_cases h : r = x
  · subst h
    simp [keepReg, setReg_setReg_self]
  · rw [setReg_comm s h]
    simp [keepReg, h]

theorem State.keepReg_setReg (w : Bool) (r : Reg) (b c : Byte) (t : State) :
    (t.keepReg w r b).setReg r c = t.setReg r c := by
  cases w
  · exact setReg_setReg_self t r b c
  · rfl

theorem State.setResultAndFlag_keepReg (s : State) (r x : Reg) (b c : Byte) (f : Bool) :
    (s.setReg r b).setResultAndFlag x c f = (s.setResultAndFlag x c f).keepReg (r == x || r == vf) r b := by
  unfold setResultAndFlag
  by_cases h : r = x
  · subst h
    simp [keepReg, setReg_setReg_self]
  · rw [setReg_comm s h, setReg_keepReg, beq_false_of_ne h, Bool.false_or]

theorem setRegsFrom_set (v : Vector Byte 16) (r x : Reg) (b : Byte) (bytes : List Byte) (hl : bytes.length = x.val + 1) :
    setRegsFrom 0 bytes (v.set r.val b) =
      if r ≤ x then setRegsFrom 0 bytes v else (setRegsFrom 0 bytes v).set r.val b := by
  apply Vector.ext
  intro j hj
  by_cases h : r ≤ x <;> simp only [h, if_true, if_false] <;> rw [Fin.le_def] at h
  · rw [setRegsFrom_getElem, setRegsFrom_getElem]
    split
    · rfl
    · rw [Vector.getElem_set_ne _ _ (by omega)]
  · rw [setRegsFrom_getElem, Vector.getElem_set, Vector.getElem_set, setRegsFrom_getElem]
    by_cases hj : r.val = j
    · rw [dif_neg (by omega), if_pos hj, if_pos hj]
    · rw [if_neg hj, if_neg hj]

theorem State.setRegsFrom_keepReg (s : State) (r x : Reg) (b : Byte) (bytes : List Byte)
    (hl : bytes.length = x.val + 1) :
    (s.setReg r b).setV (setRegsFrom 0 bytes (s.setReg r b).v) =
      (s.setV (setRegsFrom 0 bytes s.v)).keepReg (decide (r ≤ x)) r b := by
  rw [setReg_v, setRegsFrom_set _ _ _ _ _ hl]
  by_cases h : r ≤ x <;> simp only [keepReg, h, decide_true, decide_false, if_true, if_false] <;> rfl

/-! ## Reads of other registers -/

theorem reg_setReg_of_unread {s : State} {r x : Reg} (h : (r == x) = false) (b : Byte) : (s.setReg r b).reg x = s.reg x :=
  s.reg_setReg_ne r x b (by rintro rfl; simp at h)

theorem regsUpTo_setReg (s : State) {r x : Reg} (h : ¬ r ≤ x) (b : Byte) : (s.setReg r b).regsUpTo x = s.regsUpTo x := by
  rw [Fin.le_def] at h
  apply List.ext_getElem
  · simp
  · intro k hk _
    simp at hk
    simp only [State.regsUpTo_getElem, State.setReg_v]
    rw [Vector.getElem_set_ne _ _ (by omega)]

theorem sprite_setReg (s : State) {r x y : Reg} (hx : (r == x) = false) (hy : (r == y) = false) (n : Nat) (b : Byte) :
    (s.setReg r b).sprite x y n = s.sprite x y n := by
  simp only [State.sprite, State.startColumn, State.drawnRows, State.startRow, reg_setReg_of_unread hx,
    reg_setReg_of_unread hy]
  rfl

/-- A register that is not read does not decide on a fatal error. -/
theorem fatalRecord_setReg {i : Instr} {s : State} {r : Reg} (hr : readsReg s.cfg i r = false) (b : Byte) :
    fatalRecord i (s.setReg r b) = fatalRecord i s := by
  cases i
  case drw x y n =>
    obtain ⟨-, hy⟩ := Bool.or_eq_false_iff.1 hr
    simp only [fatalRecord, rowsOf, reg_setReg_of_unread hy]
    rfl
  all_goals rfl

/-- A completed run with another value in a register that is not read ends alike, but for that value if it is kept. -/
theorem exec_setReg {i : Instr} {s : State} {r : Reg} (hr : readsReg s.cfg i r = false) (hn : fatalRecord i s = none)
    (b : Byte) : exec i (s.setReg r b) = mapNext (State.keepReg (overwrites s i r) r b) (exec i s) := by
  have hn' := (fatalRecord_setReg hr b).trans hn
  cases i
  case ret => rw [(ret_fatalOr _).next hn, (ret_fatalOr _).next hn']; rfl
  case call nnn => rw [(call_fatalOr nnn _).next hn, (call_fatalOr nnn _).next hn']; rfl
  case seImm | sneImm | skp | sknp =>
    simp only [exec, execSeImm, execSneImm, execSkp, execSknp, State.skipIf_eq, reg_setReg_of_unread hr]
    rfl
  case seReg | sneReg =>
    obtain ⟨hx, hy⟩ := Bool.or_eq_false_iff.1 hr
    simp only [exec, execSeReg, execSneReg, State.skipIf_eq, reg_setReg_of_unread hx, reg_setReg_of_unread hy]
    rfl
  case ldImm x nn => exact congrArg _ (s.setReg_keepReg r x b nn)
  case addImm x nn =>
    simp only [exec, execAddImm, reg_setReg_of_unread hr]
    exact congrArg _ (s.setReg_keepReg r x b _)
  case ldReg x y =>
    simp only [exec, execLdReg, reg_setReg_of_unread hr]
    exact congrArg _ (s.setReg_keepReg r x b _)
  case orReg x y | andReg x y | xorReg x y =>
    obtain ⟨hx, hy⟩ := Bool.or_eq_false_iff.1 hr
    simp only [exec, execOrReg, execAndReg, execXorReg, reg_setReg_of_unread hx, reg_setReg_of_unread hy]
    exact congrArg _ (s.setReg_keepReg r x b _)
  case addReg x y | subReg x y | subn x y =>
    obtain ⟨hx, hy⟩ := Bool.or_eq_false_iff.1 hr
    simp only [exec, execAddReg, execSubReg, execSubn, reg_setReg_of_unread hx, reg_setReg_of_unread hy]
    exact congrArg _ (s.setResultAndFlag_keepReg r x b _ _)
  case shr x y | shl x y =>
    have hop : (s.setReg r b).shiftOperand x y = s.shiftOperand x y := by
      unfold State.shiftOperand
      cases hq : s.cfg.shiftIgnoresY <;> simp only [readsReg, hq] at hr <;>
        simpa [hq] using reg_setReg_of_unread hr b
    simp only [exec, execShr, execShl, hop]
    exact congrArg _ (s.setResultAndFlag_keepReg r x b _ _)
  case drw x y n =>
    obtain ⟨hx, hy⟩ := Bool.or_eq_false_iff.1 hr
    rw [(drw_fatalOr x y n _).next hn, (drw_fatalOr x y n _).next hn', sprite_setReg s hx hy]
    exact congrArg _ ((s.setFb (s.sprite x y n).fb).setReg_keepReg r vf b _)
  case ldVDt x => exact congrArg _ (s.setReg_keepReg r x b _)
  case ldDtV | ldStV | ldF =>
    simp only [exec, execLdDtV, execLdStV, execLdF, reg_setReg_of_unread hr]
    rfl
  case addI x =>
    simp only [exec, execAddI, reg_setReg_of_unread hr]
    exact congrArg _ ((s.setI (s.i + (s.reg x).setWidth 16)).setReg_keepReg r vf b _)
  case ldVK x =>
    rw [exec_ldVK, exec_ldVK, overwrites, State.setReg_keys]
    cases KeySet.lowest s.keys with
    | none => simp [mapNext, State.keepReg]; rfl
    | some k => simpa [mapNext] using s.setReg_keepReg r x b _
  case ldVMem x =>
    rw [(ldVMem_fatalOr x _).next hn, (ldVMem_fatalOr x _).next hn']
    exact congrArg _ (s.setRegsFrom_keepReg r x b _ (by simp))
  case ldB x =>
    rw [(ldB_fatalOr x _).next hn, (ldB_fatalOr x _).next hn', reg_setReg_of_unread hr]
    rfl
  case ldMemV x =>
    rw [(ldMemV_fatalOr x _).next hn, (ldMemV_fatalOr x _).next hn', regsUpTo_setReg s (of_decide_eq_false hr)]
    rfl
  all_goals rfl

/-- A register of the "writes" column is overwritten, for FX0A when a key is down. -/
theorem overwrites_of_writesReg {i : Instr} {s : State} {r : Reg} (hw : writesReg i r = true)
    (hk : ∀ x, i = .ldVK x → ∃ k : Fin 16, s.keys[k.val] = true) : overwrites s i r = true := by
  cases i
  case ldVK x => exact Bool.and_eq_true_iff.2 ⟨hw, (KeySet.lowest_isSome_iff s.keys).2 (hk x rfl)⟩
  all_goals exact hw

end Sys2Proof.Machine
end

section
/-! SUPPORT. The font area and the state a boot starts (spec/10_state.md R41, R44; spec/70_reset_and_hazards.md R251). -/

namespace Sys2Proof.Machine

open Sys2Proof.Claims

theorem Config.wf_iff (c : Config) : c.wf = true ↔ 1 ≤ c.stackDepth ∧ c.fontBase + 80 ≤ 512 ∧ c.fontData.length = 80 := by
  simp [Config.wf, fontSize, progBase, and_assoc]

/-- Every byte of FONT_DATA stands in the font area of `s`. -/
def FontStands (s : State) : Prop := ∀ k, k < 80 → s.cfg.fontData[k]? = some (s.readByte (s.cfg.fontBase + k))

/-- A glyph's address does not wrap (R6, R185). -/
theorem glyphAddr_toNat {cfg : Config} (h : cfg.wf = true) (b : Byte) :
    (glyphAddr cfg b).toNat = cfg.fontBase + 5 * (b.toNat % 16) := by
  obtain ⟨-, hbase, -⟩ := (Config.wf_iff cfg).1 h
  rw [glyphAddr, BitVec.toNat_ofNat, Nat.mod_eq_of_lt (by omega)]

/-- Where the font stands, the five bytes from a glyph's address are that glyph (R41). -/
theorem FontStands.glyph {s : State} (h : FontStands s) (hwf : s.cfg.wf = true) (b : Byte) (row : Fin 5) :
    s.cfg.fontData[5 * (b.toNat % 16) + row.val]? = some (s.readByte ((glyphAddr s.cfg b).toNat + row.val)) := by
  rw [glyphAddr_toNat hwf, Nat.add_assoc]
  exact h _ (by omega)

/-- What is not listed in memory reads as the font in the font area (R44). -/
theorem Memory.unlisted_font {cfg : Config} (h : cfg.wf = true) {k : Nat} (hk : k < 80) :
    cfg.fontData[k]? = some (Memory.unlisted cfg (cfg.fontBase + k)) := by
  obtain ⟨-, -, hlen⟩ := (Config.wf_iff cfg).1 h
  rw [Memory.unlisted, if_pos (by simp only [fontSize]; omega), Nat.add_sub_cancel_left, List.getElem?_eq_getElem (by omega)]
  rfl

/-- The parameters of a booted machine: SHIFT_IGNORES_Y from the configuration, true where it is unset (R235, R251). -/
def bootConfig (hw : Config) (q : QuirkConfig) : Config := { hw with shiftIgnoresY := q.ignoreShiftY.getD true }

/-- The state a boot starts: the image at PROG_BASE on the state of R44 (R251). -/
theorem boot_started {hw : Config} {image : List Byte} {q : QuirkConfig} {s : State}
    (h : boot hw (some image) (some q) = .started s) :
    s = (State.initial (bootConfig hw q)).setMem (Memory.writeBlock (bootConfig hw q) progBase image []) := by
  simp only [boot] at h
  split at h <;> cases h
  rfl

/-- No image reaches the font area (R6, R251). -/
theorem fontStands_loaded {cfg : Config} (h : cfg.wf = true) (image : List Byte) :
    FontStands ((State.initial cfg).setMem (Memory.writeBlock cfg progBase image [])) := by
  intro k hk
  obtain ⟨-, hbase, -⟩ := (Config.wf_iff cfg).1 h
  change cfg.fontData[k]? = some (Memory.read cfg (Memory.writeBlock cfg progBase image []) (cfg.fontBase + k))
  rw [Memory.read_writeBlock, dif_neg (by simp only [progBase]; omega)]
  exact Memory.unlisted_font h hk

end Sys2Proof.Machine
end

section
/-! The statements of spec/10_state.md, settled. -/

namespace Sys2Proof.Proofs

open Sys2Proof.Machine Sys2Proof.Claims

/-- Settles O20: agent by agent; a cycle's instruction starts from an executing state. -/
theorem everyStepKeepsTheInvariant : Obligations.EveryStepKeepsTheInvariant := by
  intro s t h hstep
  cases step_cases hstep with
  | fetchFault hm hpc =>
    have hinv : s.popMove.Inv := h.congr rfl rfl rfl rfl rfl
    exact hinv.haltedAt ⟨rfl, rfl, hpc⟩ h.pc_bound
  | instr hm hpc i hd t he => exact exec_keeps_inv (executing_advance h hm hpc) he
  | unmatched hm hpc w => exact (executing_advance h hm hpc).toInv.congr rfl rfl rfl rfl rfl
  | tick hm =>
    rw [tick_eq]
    exact h.congr rfl rfl rfl rfl rfl
  | keys k hm => exact h.congr rfl rfl rfl rfl rfl

/-- Settles O14: the frame rules, chained for each constructor. -/
theorem everyInstructionCompletesWithinItsFrame : Obligations.EveryInstructionCompletesWithinItsFrame := by
  intro i s hn
  obtain ⟨t, h, hw⟩ := exec_within hn
  exact ⟨t, h, hw.toFrame⟩

/-- Settles O15: the frame for the writes; for the reads, both runs raise the same fatal error or complete alike. -/
theorem instructionsReadAndWriteOnlyTheirRegisters : Obligations.InstructionsReadAndWriteOnlyTheirRegisters := by
  intro i s
  obtain ⟨t, h⟩ := exec_total i s
  obtain ⟨q, hq, rfl⟩ | ⟨hn, hw⟩ := exec_cases h <;> refine ⟨_, h, ?_, fun r b hr => ?_⟩
  · exact fun r _ => rfl
  · refine ⟨haltedAt (s.setReg r b) q, exec_fatal ((fatalRecord_setReg hr b).trans hq), ?_, fun _ hn => ?_⟩
    · exact (haltedAt s q).setReg_setReg_self r b 0
    · rw [hq] at hn
      cases hn
  · exact hw.reg
  · refine ⟨t.keepReg (overwrites s i r) r b, by rw [exec_setReg hr hn, h]; rfl, t.keepReg_setReg _ r b 0,
      fun hwr _ hk => ?_⟩
    rw [overwrites_of_writesReg hwr hk]
    rfl

/-- Settles O16. -/
theorem programCounterAfterEveryInstruction : Obligations.ProgramCounterAfterEveryInstruction := by
  intro i s hn
  obtain ⟨t, h, -⟩ := exec_within hn
  exact ⟨t, h, exec_pc hn h⟩

/-- Settles O17. -/
theorem onlyKeyInstructionsSeeTheKeys : Obligations.OnlyKeyInstructionsSeeTheKeys := by
  intro i s k hskp hsknp hldVK
  refine exec_mapInputs i (fun _ => k) id (fun h => ?_) (fun _ => rfl) s
  cases i
  case skp x => exact absurd rfl (hskp x)
  case sknp x => exact absurd rfl (hsknp x)
  case ldVK x => exact absurd rfl (hldVK x)
  all_goals cases h

/-- Settles O18. -/
theorem onlyShiftsSeeTheQuirk : Obligations.OnlyShiftsSeeTheQuirk := by
  intro i s b hshr hshl
  refine exec_mapInputs i id (fun _ => b) (fun _ => rfl) (fun h => ?_) s
  cases i
  case shr x y => exact absurd rfl (hshr x y)
  case shl x y => exact absurd rfl (hshl x y)
  all_goals cases h

/-- Settles O19: an instruction keeps both, and of the other moves only the host's touches the keys. -/
theorem noStepWritesTheParametersOrTheKeys : Obligations.NoStepWritesTheParametersOrTheKeys := by
  intro s t hstep
  cases step_cases hstep with
  | fetchFault hm hpc => exact ⟨rfl, fun _ => rfl⟩
  | instr hm hpc i hd t he => exact ⟨(exec_cfg he).trans rfl, fun _ => (exec_keys he).trans rfl⟩
  | unmatched hm hpc w => exact ⟨rfl, fun _ => rfl⟩
  | tick hm =>
    rw [tick_eq]
    exact ⟨rfl, fun _ => rfl⟩
  | keys k hm => exact ⟨rfl, fun hk => absurd hm (hk k)⟩

/-- Settles O33: of the instructions only FX18 may change ST, and a tick leaves it when SOUND_TIMER_DECAYS is false. -/
theorem soundTimerChangesOnlyByItsWrite : Obligations.SoundTimerChangesOnlyByItsWrite := by
  intro s t hdecay hstep
  cases step_cases hstep with
  | fetchFault hm hpc => exact .inl rfl
  | instr hm hpc i hd t he =>
    cases hi : changesSt i with
    | false => exact .inl ((exec_st hi he).trans rfl)
    | true =>
      obtain ⟨x, rfl⟩ := (changesSt_iff i).1 hi
      cases he
      exact .inr ⟨hm, x, hd, rfl⟩
  | unmatched hm hpc w => exact .inl rfl
  | tick hm =>
    have hcfg : s.popMove.cfg.soundTimerDecays = false := hdecay
    rw [tick_eq, hcfg]
    exact .inl rfl
  | keys k hm => exact .inl rfl

/-- Settles O56: FX29 changes I alone, and a boot leaves the font standing below the image. -/
theorem glyphBytesStandWhereLdFPoints : Obligations.GlyphBytesStandWhereLdFPoints := by
  refine ⟨fun x s hwf hfont => ⟨_, rfl, FontStands.glyph hfont hwf (s.reg x)⟩, ?_⟩
  intro hw image q s x b hwf hboot
  have hcwf : (bootConfig hw q).wf = true := hwf
  obtain rfl := boot_started hboot
  refine ⟨_, rfl, fun row => ?_⟩
  rw [State.reg_setReg_self]
  exact (fontStands_loaded hcwf image).glyph hcwf b row

/-- Settles O21. -/
theorem resetMeetsTheInvariant : Obligations.ResetMeetsTheInvariant where
  cfg_wf := by decide
  mem_wf := ⟨List.Pairwise.nil, List.forall_mem_nil _⟩
  stack_depth := by decide
  stack_addr := List.forall_mem_nil _
  pc_bound := by decide
  halted_record _ h := nomatch h

/-- Settles O23: memory lists nothing at reset, so every byte reads as the font table or 0. -/
theorem resetValuesAreTheSpecs : Obligations.ResetValuesAreTheSpecs := by
  refine ⟨rfl, fun r => ?_, rfl, rfl, rfl, rfl, rfl, fun x y => ?_, rfl, rfl, fun a => rfl⟩
  · exact Vector.getElem_replicate ..
  · exact ne_true_of_eq_false (Framebuffer.pixel_clear x y)

end Sys2Proof.Proofs
end

section
/-! SUPPORT. The bytes a block write leaves, and what FX55 stores as a fetch and a load read it (spec/20_memory.md R52, R57). -/

namespace Sys2Proof.Machine

open Sys2Proof.Claims

/-- The `k`-th byte of a block write stands at its address. -/
theorem State.getElem?_eq_readByte_writeBlock (s : State) (a : Nat) (bs : List Byte) {k : Nat} (hk : k < bs.length) :
    bs[k]? = some ((s.setMem (Memory.writeBlock s.cfg a bs s.mem)).readByte (a + k)) := by
  rw [State.readByte_setMem_writeBlock, dif_pos (by omega), List.getElem?_eq_getElem hk]
  simp only [Nat.add_sub_cancel_left]

/-- `s` with V0 to VX stored from I on: what FX55 completes in (R187). -/
def State.storeRegs (s : State) (x : Reg) : State :=
  s.setMem (Memory.writeBlock s.cfg s.i.toNat (s.regsUpTo x) s.mem)

theorem fatalRecord_ldMemV_eq_none (x : Reg) (s : State) :
    fatalRecord (.ldMemV x) s = none ↔ s.i.toNat + x.val ≤ 4095 := by
  simp [fatalRecord]

theorem exec_ldMemV_inRange {x : Reg} {s : State} (h : s.i.toNat + x.val ≤ 4095) :
    exec (.ldMemV x) s = .next (s.storeRegs x) :=
  (ldMemV_fatalOr x s).next ((fatalRecord_ldMemV_eq_none x s).2 h)

/-- Each stored register stands at its address (R187). -/
theorem State.readByte_storeRegs (s : State) {x r : Reg} (hr : r ≤ x) :
    (s.storeRegs x).readByte (s.i.toNat + r.val) = s.reg r := by
  have hlen : r.val < (s.regsUpTo x).length := by
    rw [State.regsUpTo_length]
    exact Nat.lt_succ_of_le hr
  have hbyte := s.getElem?_eq_readByte_writeBlock s.i.toNat (s.regsUpTo x) hlen
  rw [List.getElem?_eq_getElem hlen, State.regsUpTo_getElem] at hbyte
  exact (Option.some.inj hbyte).symm

/-- A fetch at `a` reads the two bytes at `a`, big-endian (R56, R90). -/
theorem State.fetchWord_setPc (s : State) {a : Word} (ha : a.toNat ≤ 4094) :
    (s.setPc a).fetchWord = some (s.readByte a.toNat ++ s.readByte (a.toNat + 1)) := by
  obtain ⟨-, h⟩ | ⟨hgt, -⟩ := (s.setPc a).fetchWord_cases
  · exact h
  · exact absurd hgt (Nat.not_lt.2 ha)

end Sys2Proof.Machine
end

section
/-! The statements of spec/20_memory.md, settled. -/

namespace Sys2Proof.Proofs

open Sys2Proof.Machine Sys2Proof.Claims

/-- Settles O25: both accesses run the check first; a write in range is a block write, read back byte by byte. -/
theorem memoryAccessesAreCheckedWhole : Obligations.MemoryAccessesAreCheckedWhole := by
  rintro s addr n bytes hn rfl
  constructor
  · intro hout
    exact ⟨s.memRead_outOfRange addr _ hn (by omega), s.memWrite_outOfRange addr bytes hn (by omega)⟩
  · intro hin
    have hend : addr + bytes.length ≤ 4096 := by omega
    constructor
    · refine ⟨_, s.memRead_inRange addr _ (.inr hend), by simp, fun k hk => ?_⟩
      simp [hk]
    · refine ⟨_, s.memWrite_inRange addr bytes hend, (Within.writeBlock hend fun a ha => ?_).toFrame, fun k hk =>
        s.getElem?_eq_readByte_writeBlock addr bytes hk⟩
      exact of_decide_eq_false ha

/-- Settles O26: what is read decides which cells are listed, and a rising list is decided by its cells. -/
theorem memoriesThatReadAlikeAreEqual : Obligations.MemoriesThatReadAlikeAreEqual := by
  intro cfg m m' hm hm' hread
  have hcells : ∀ c : Host.Cell, c ∈ m ↔ c ∈ m' := fun ⟨a, b⟩ => by
    rw [Memory.mem_iff_read cfg m hm, Memory.mem_iff_read cfg m' hm', hread]
  exact List.Pairwise.eq_of_mem_iff (r := InvImage (· < ·) Prod.fst) hm.1 hm'.1 hcells

/-- Settles O27: the fetch at I reads back the first two registers stored. -/
theorem storedRegistersAreFetchedAsCode : Obligations.StoredRegistersAreFetchedAsCode := by
  intro x s hx hin
  refine ⟨s.storeRegs x, exec_ldMemV_inRange hin, ?_⟩
  have hfirst : (s.storeRegs x).readByte s.i.toNat = s.reg 0 := s.readByte_storeRegs (Fin.zero_le x)
  have hsecond : (s.storeRegs x).readByte (s.i.toNat + 1) = s.reg 1 := s.readByte_storeRegs (r := 1) hx
  rw [State.fetchWord_setPc _ (by omega), hfirst, hsecond]

end Sys2Proof.Proofs
end

section
/-! SUPPORT. The word of a decoded instruction, format by format, and the round trips (spec/30_encoding.md R81, R83, R84). -/

namespace Sys2Proof

/-! ## A word is its class and the fields of its format (R81) -/

theorem encodeNNN_fields {w : Word} {op : Nat} (hop : field w 12 4 = op) : encodeNNN op (nnnField w) = w := by
  have hw := w.isLt
  apply BitVec.eq_of_toNat_eq
  simp [encodeNNN, nnnField, field] at hop ⊢
  omega

theorem encodeXNN_fields {w : Word} {op : Nat} (hop : field w 12 4 = op) :
    encodeXNN op (xField w) (nnField w) = w := by
  have hw := w.isLt
  apply BitVec.eq_of_toNat_eq
  simp [encodeXNN, xField, nnField, field] at hop ⊢
  omega

theorem encodeXYN_fields {w : Word} {op n : Nat} (hop : field w 12 4 = op) (hn : field w 0 4 = n) :
    encodeXYN op (xField w) (yField w) n = w := by
  have hw := w.isLt
  apply BitVec.eq_of_toNat_eq
  simp [encodeXYN, xField, yField, field] at hop hn ⊢
  omega

theorem encodeXF_fields {w : Word} {op fn : Nat} (hop : field w 12 4 = op) (hfn : field w 0 8 = fn) :
    encodeXF op (xField w) fn = w := by
  have hw := w.isLt
  apply BitVec.eq_of_toNat_eq
  simp [encodeXF, xField, field] at hop hfn ⊢
  omega

/-! ## From the instruction to the word and back -/

theorem decode_encode {i : Instr} (hwf : i.wf = true) : decode (encode i) = .instr i := by
  cases i
  case cls | ret => rfl
  case jp | call | ldI => simp [encode, decode, fields_encodeNNN]
  case seImm | sneImm | ldImm | addImm => simp [encode, decode, fields_encodeXNN]
  case seReg | sneReg => simp [encode, decode, fields_encodeXYN]
  case ldReg | orReg | andReg | xorReg | addReg | subReg | shr | subn | shl =>
    simp [encode, decode, decodeClass8, fields_encodeXYN]
  case drw x y n =>
    have hn : n < 16 := Nat.lt_succ_of_le (of_decide_eq_true hwf)
    simp [encode, decode, fields_encodeXYN, hn]
  case skp | sknp => simp [encode, decode, decodeClassE, fields_encodeXF]
  case ldVDt | ldDtV | ldStV | addI | ldVK | ldF | ldB | ldMemV | ldVMem =>
    simp [encode, decode, decodeClassF, fields_encodeXF]

/-! ## From the word to the instruction and back -/

/-- `i` is well formed and `w` is its word. -/
def IsWordOf (w : Word) (i : Instr) : Prop := i.wf = true ∧ encode i = w

section
variable {w : Word} {i : Instr}

theorem isWordOf_of_decodeClass0 (h : decodeClass0 w = .instr i) : IsWordOf w i := by
  unfold decodeClass0 at h
  split_ifs at h with h1 h2 <;> cases h
  · exact ⟨rfl, h1.symm⟩
  · exact ⟨rfl, h2.symm⟩

theorem isWordOf_of_decodeClass8 (hop : field w 12 4 = 0x8) (h : decodeClass8 w = .instr i) : IsWordOf w i := by
  unfold decodeClass8 at h
  split at h <;> cases h <;> exact ⟨rfl, encodeXYN_fields hop ‹_›⟩

theorem isWordOf_of_decodeClassE (hop : field w 12 4 = 0xE) (h : decodeClassE w = .instr i) : IsWordOf w i := by
  unfold decodeClassE at h
  split_ifs at h <;> cases h <;> exact ⟨rfl, encodeXF_fields hop ‹_›⟩

theorem isWordOf_of_decodeClassF (hop : field w 12 4 = 0xF) (h : decodeClassF w = .instr i) : IsWordOf w i := by
  unfold decodeClassF at h
  split_ifs at h <;> cases h <;> exact ⟨rfl, encodeXF_fields hop ‹_›⟩

/-- Every instruction the decoder answers is well formed, and its word is the one decoded: class by class. -/
theorem isWordOf_of_decode (h : decode w = .instr i) : IsWordOf w i := by
  unfold decode at h
  split at h <;> rename_i hop
  case h_1 => exact isWordOf_of_decodeClass0 h
  case h_2 | h_3 | h_11 => cases h; exact ⟨rfl, encodeNNN_fields hop⟩
  case h_4 | h_5 | h_7 | h_8 => cases h; exact ⟨rfl, encodeXNN_fields hop⟩
  case h_6 | h_10 =>
    split_ifs at h with hn
    cases h
    exact ⟨rfl, encodeXYN_fields hop hn⟩
  case h_9 => exact isWordOf_of_decodeClass8 hop h
  case h_12 =>
    cases h
    exact ⟨decide_eq_true (Nat.le_of_lt_succ (field_lt w 0 4)), encodeXYN_fields hop rfl⟩
  case h_13 => exact isWordOf_of_decodeClassE hop h
  case h_14 => exact isWordOf_of_decodeClassF hop h
  case h_15 => cases h

end

end Sys2Proof
end

section
/-! SUPPORT. The decoder and the mask and match table (spec/30_encoding.md R83): a row fixes the fields that its mask covers,
and they decide what the decoder answers. -/

namespace Sys2Proof

/-- A row fixes every field of its words that its mask covers whole. -/
theorem OpcodeRow.field_of_covers {r : OpcodeRow} {w : Word} (h : r.covers w) (lo len : Nat)
    (hmask : r.mask.extractLsb' lo len = BitVec.allOnes len) : field w lo len = r.value.toNat / 2 ^ lo % 2 ^ len := by
  have hand : (w &&& r.mask).extractLsb' lo len = w.extractLsb' lo len := by
    rw [BitVec.extractLsb'_and, hmask, BitVec.and_allOnes]
  rw [← toNat_extract, ← hand, h, toNat_extract, field]

/-- A word that a row covers decodes to an instruction of that row: 00E0 and 00EE are whole words, and every other row fixes
the class, with the last nibble or the last byte where the class needs it. -/
theorem exists_instr_of_covers {r : OpcodeRow} {w : Word} (hr : r ∈ opcodeTable) (hc : r.covers w) :
    ∃ i, decode w = .instr i ∧ i.row = r.number := by
  have hfield := OpcodeRow.field_of_covers hc
  simp only [opcodeTable, List.cons_append, List.nil_append, List.mem_cons, List.not_mem_nil, or_false] at hr
  obtain rfl | rfl | hr := hr
  · obtain rfl : w = 0x00E0#16 := BitVec.and_allOnes.symm.trans hc
    exact ⟨.cls, rfl, rfl⟩
  · obtain rfl : w = 0x00EE#16 := BitVec.and_allOnes.symm.trans hc
    exact ⟨.ret, rfl, rfl⟩
  · rcases hr with rfl | rfl | rfl | rfl | rfl | rfl | rfl | rfl | rfl | rfl | rfl | rfl | rfl | rfl | rfl | rfl | rfl |
      rfl | rfl | rfl | rfl | rfl | rfl | rfl | rfl | rfl | rfl | rfl | rfl | rfl <;>
    simp [decode, decodeClass8, decodeClassE, decodeClassF, hfield 12 4, hfield 0 4, hfield 0 8, Instr.row]

/-- The word of a well-formed instruction is covered by the instruction's row. -/
theorem encode_covered {i : Instr} (hwf : i.wf = true) : ∃ r ∈ opcodeTable, r.number = i.row ∧ r.covers (encode i) :=
  match i with
  | .cls => Laws.RowCovers.cls hwf
  | .ret => Laws.RowCovers.ret hwf
  | .jp nnn => Laws.RowCovers.jp nnn hwf
  | .call nnn => Laws.RowCovers.call nnn hwf
  | .seImm x nn => Laws.RowCovers.seImm x nn hwf
  | .sneImm x nn => Laws.RowCovers.sneImm x nn hwf
  | .seReg x y => Laws.RowCovers.seReg x y hwf
  | .sneReg x y => Laws.RowCovers.sneReg x y hwf
  | .ldImm x nn => Laws.RowCovers.ldImm x nn hwf
  | .addImm x nn => Laws.RowCovers.addImm x nn hwf
  | .ldReg x y => Laws.RowCovers.ldReg x y hwf
  | .orReg x y => Laws.RowCovers.orReg x y hwf
  | .andReg x y => Laws.RowCovers.andReg x y hwf
  | .xorReg x y => Laws.RowCovers.xorReg x y hwf
  | .addReg x y => Laws.RowCovers.addReg x y hwf
  | .subReg x y => Laws.RowCovers.subReg x y hwf
  | .shr x y => Laws.RowCovers.shr x y hwf
  | .subn x y => Laws.RowCovers.subn x y hwf
  | .shl x y => Laws.RowCovers.shl x y hwf
  | .ldI nnn => Laws.RowCovers.ldI nnn hwf
  | .drw x y n => Laws.RowCovers.drw x y n hwf
  | .skp x => Laws.RowCovers.skp x hwf
  | .sknp x => Laws.RowCovers.sknp x hwf
  | .ldVDt x => Laws.RowCovers.ldVDt x hwf
  | .ldDtV x => Laws.RowCovers.ldDtV x hwf
  | .ldStV x => Laws.RowCovers.ldStV x hwf
  | .addI x => Laws.RowCovers.addI x hwf
  | .ldVK x => Laws.RowCovers.ldVK x hwf
  | .ldF x => Laws.RowCovers.ldF x hwf
  | .ldB x => Laws.RowCovers.ldB x hwf
  | .ldMemV x => Laws.RowCovers.ldMemV x hwf
  | .ldVMem x => Laws.RowCovers.ldVMem x hwf

/-- Two rows that cover one word agree where both masks look. -/
theorem OpcodeRow.agree_of_covers {r q : OpcodeRow} {w : Word} (hr : r.covers w) (hq : q.covers w) :
    r.value &&& q.mask = q.value &&& r.mask := by
  rw [← hr, ← hq, BitVec.and_assoc, BitVec.and_assoc, BitVec.and_comm r.mask]

/-- No two rows agree where both masks look. -/
theorem opcodeTable_disjoint : ∀ r ∈ opcodeTable, ∀ q ∈ opcodeTable, r.value &&& q.mask = q.value &&& r.mask → r = q := by
  decide

end Sys2Proof
end

section
/-! SUPPORT. The words that match no row, class by class (spec/30_encoding.md R85). -/

namespace Sys2Proof

/-! ## The fields the rule names -/

theorem field_class (w : Word) : field w 12 4 = w.toNat / 4096 := by
  have hw := w.isLt
  simp only [field]
  omega

theorem field_lastNibble (w : Word) : field w 0 4 = w.toNat % 16 := by simp [field]

theorem field_lastByte (w : Word) : field w 0 8 = w.toNat % 256 := by simp [field]

/-! ## What each class leaves unmatched -/

theorem decodeClass0_eq_unmatched_iff (w : Word) : decodeClass0 w = .unmatched w ↔ w ≠ 0x00E0#16 ∧ w ≠ 0x00EE#16 := by
  unfold decodeClass0
  split_ifs <;> simp_all

theorem decodeClass8_eq_unmatched_iff (w : Word) :
    decodeClass8 w = .unmatched w ↔ field w 0 4 ∈ [0x8, 0x9, 0xA, 0xB, 0xC, 0xD, 0xF] := by
  have hlt : field w 0 4 < 16 := field_lt w 0 4
  unfold decodeClass8
  generalize field w 0 4 = n at hlt ⊢
  interval_cases n <;> simp

theorem decodeClassE_eq_unmatched_iff (w : Word) : decodeClassE w = .unmatched w ↔ field w 0 8 ∉ [0x9E, 0xA1] := by
  unfold decodeClassE
  split_ifs <;> simp_all

theorem decodeClassF_eq_unmatched_iff (w : Word) :
    decodeClassF w = .unmatched w ↔ field w 0 8 ∉ [0x07, 0x0A, 0x15, 0x18, 0x1E, 0x29, 0x33, 0x55, 0x65] := by
  unfold decodeClassF
  split_ifs <;> simp_all

/-- The unmatched words by class: the classes the rule names, and no other. -/
theorem decode_eq_unmatched_iff (w : Word) : decode w = .unmatched w ↔
    (field w 12 4 = 0x0 ∧ w ≠ 0x00E0#16 ∧ w ≠ 0x00EE#16) ∨
    ((field w 12 4 = 0x5 ∨ field w 12 4 = 0x9) ∧ field w 0 4 ≠ 0) ∨
    (field w 12 4 = 0x8 ∧ field w 0 4 ∈ [0x8, 0x9, 0xA, 0xB, 0xC, 0xD, 0xF]) ∨
    (field w 12 4 = 0xB ∨ field w 12 4 = 0xC) ∨
    (field w 12 4 = 0xE ∧ field w 0 8 ∉ [0x9E, 0xA1]) ∨
    (field w 12 4 = 0xF ∧ field w 0 8 ∉ [0x07, 0x0A, 0x15, 0x18, 0x1E, 0x29, 0x33, 0x55, 0x65]) := by
  have hlt : field w 12 4 < 16 := field_lt w 12 4
  rw [← decodeClass0_eq_unmatched_iff, ← decodeClass8_eq_unmatched_iff, ← decodeClassE_eq_unmatched_iff,
    ← decodeClassF_eq_unmatched_iff]
  unfold decode
  generalize field w 12 4 = op at hlt ⊢
  interval_cases op <;> simp

/-- The decoder answers an instruction, or says that the very word it was given is unmatched. -/
theorem decode_cases (w : Word) : (∃ i, decode w = .instr i) ∨ decode w = .unmatched w := by
  unfold decode
  split
  case h_1 => unfold decodeClass0; split_ifs <;> simp
  case h_6 | h_10 => split_ifs <;> simp
  case h_9 => unfold decodeClass8; split <;> simp
  case h_13 => unfold decodeClassE; split_ifs <;> simp
  case h_14 => unfold decodeClassF; split_ifs <;> simp
  all_goals simp

end Sys2Proof
end

section
/-! SUPPORT. A cycle of the main loop (spec/30_encoding.md R90 to R92), said once for each way its fetch can go. -/

namespace Sys2Proof.Machine

open Sys2Proof.Claims

theorem step_of_mainLoopTurn {s : State} (hm : MainLoopTurn s) : step s = runCycle s.popMove := by
  obtain ⟨hrun, hmove⟩ := hm
  have hrun' : s.popMove.status = .running := hrun
  simp [step, hmove, takeMove, mainLoopTurn, hrun']

/-- The fetch sees `pc` and memory only, which taking a move off the schedule leaves (R90). -/
theorem fetchWord_popMove {s : State} (hpc : s.pc.toNat ≤ 4094) : s.popMove.fetchWord = some (wordAtPc s) :=
  s.popMove.fetchWord_setPc hpc

theorem step_of_fetch {s : State} (hm : MainLoopTurn s) (hpc : s.pc.toNat ≤ 4094) :
    step s = executeDecoded (decode (wordAtPc s)) s.popMove.advance := by
  rw [step_of_mainLoopTurn hm, runCycle, fetchWord_popMove hpc]

theorem step_of_instr {s : State} {i : Instr} (hm : MainLoopTurn s) (hpc : s.pc.toNat ≤ 4094)
    (hd : decode (wordAtPc s) = .instr i) : step s = exec i s.popMove.advance := by
  rw [step_of_fetch hm hpc, hd, executeDecoded]

theorem step_of_unmatched {s : State} {w : Word} (hm : MainLoopTurn s) (hpc : s.pc.toNat ≤ 4094)
    (hd : decode (wordAtPc s) = .unmatched w) : step s = .next (execUnmatched w s.popMove.advance) := by
  rw [step_of_fetch hm hpc, hd, executeDecoded]

theorem step_of_fetchFault {s : State} (hm : MainLoopTurn s) (hpc : s.pc.toNat > 4094) :
    step s = .next (haltedAt s.popMove ⟨.pcOutOfRange, s.pc, none, none⟩) := by
  have hf : s.popMove.fetchWord = none := if_pos hpc
  rw [step_of_mainLoopTurn hm, runCycle, hf]
  rfl

/-- The address an instruction sees as its own is the one it was fetched from (R92). -/
@[simp] theorem State.advance_instrAddr (s : State) : s.advance.instrAddr = s.pc :=
  add_sub_cancel_right s.pc 2

/-- The main loop's turn on a running core always has a next state: an instruction's, an unmatched word's or a fetch fault's. -/
theorem exists_step_of_mainLoopTurn {s : State} (hm : MainLoopTurn s) : ∃ t, step s = .next t := by
  by_cases hpc : s.pc.toNat ≤ 4094
  · obtain ⟨i, hd⟩ | hd := decode_cases (wordAtPc s)
    · rw [step_of_instr hm hpc hd]
      exact exec_total i _
    · exact ⟨_, step_of_unmatched hm hpc hd⟩
  · exact ⟨_, step_of_fetchFault hm (Nat.lt_of_not_le hpc)⟩

/-- A step of a running core goes on, whichever agent moves, unless the host quits (R87). -/
theorem exists_step_of_running {s : State} (hrun : s.status = .running) (hquit : s.nextMove ≠ .quit) :
    ∃ t, step s = .next t := by
  cases hm : s.nextMove with
  | mainLoop => exact exists_step_of_mainLoopTurn ⟨hrun, hm⟩
  | tick => exact ⟨tick s.popMove, by rw [step, hm]; rfl⟩
  | keys k => exact ⟨s.popMove.setKeys k, by rw [step, hm]; rfl⟩
  | quit => exact absurd hm hquit

end Sys2Proof.Machine
end

section
/-! SUPPORT. The end of a run: the jump to itself, and the fairness of every endless run (spec/30_encoding.md R89;
spec/60_exceptions.md R240, R259). -/

namespace Sys2Proof.Machine

open Sys2Proof.Claims

/-! ## Spinning at the end -/

/-- `t` is `s` but for what the ticker, the host and the schedule may change: the timers, the keys and the schedule. -/
def SpunTo (s t : State) : Prop := t = { s with dt := t.dt, st := t.st, keys := t.keys, schedule := t.schedule }

theorem SpunTo.trans {s t u : State} (h : SpunTo s t) (h' : SpunTo t u) : SpunTo s u := by
  unfold SpunTo at h
  rw [SpunTo, h', h]

/-- The core is running at a jump to itself, and the host has no quit scheduled. -/
structure Spinning (e : Addr12) (s : State) : Prop where
  running : s.status = .running
  atEnd : s.atEnd e
  noQuit : .quit ∉ s.schedule

theorem State.atEnd.of_spunTo {s t : State} {e : Addr12} (h : s.atEnd e) (hst : SpunTo s t) : t.atEnd e := by
  rw [hst]
  exact h

theorem nextMove_ne_quit {s : State} (h : .quit ∉ s.schedule) : s.nextMove ≠ .quit := by
  unfold State.nextMove
  split <;> simp_all [eq_comm]

theorem quit_not_mem_laterMoves {s : State} (h : .quit ∉ s.schedule) : .quit ∉ s.laterMoves := by
  unfold State.laterMoves
  split <;> simp_all

/-- A jump to itself fetched at `e` leaves `pc` at `e`. -/
theorem State.atEnd.step_jump {s : State} {e : Addr12} (h : s.atEnd e) (hm : MainLoopTurn s) :
    step s = .next s.popMove := by
  obtain ⟨hpc, hf⟩ := h
  obtain ⟨hle, hf'⟩ | ⟨-, hf'⟩ := s.fetchWord_cases
  · have hw : wordAtPc s = encode (.jp e) := Option.some.inj (hf'.symm.trans hf)
    rw [step_of_instr hm hle (by rw [hw]; exact decode_encode rfl)]
    change Host.Outcome.next (s.popMove.advance.setPc (zext16 e)) = _
    rw [← hpc]
    rfl
  · rw [hf] at hf'
    cases hf'

theorem Spinning.of_spunTo {e : Addr12} {s t : State} (h : Spinning e s) (hst : SpunTo s t)
    (hsched : t.schedule = s.laterMoves) : Spinning e t where
  running := by
    rw [hst]
    exact h.running
  atEnd := h.atEnd.of_spunTo hst
  noQuit := by
    rw [hsched]
    exact quit_not_mem_laterMoves h.noQuit

/-- A step at the end stays there. -/
theorem Spinning.step {s : State} {e : Addr12} (h : Spinning e s) :
    ∃ t, step s = .next t ∧ SpunTo s t ∧ Spinning e t := by
  cases hm : s.nextMove with
  | mainLoop => exact ⟨_, h.atEnd.step_jump ⟨h.running, hm⟩, rfl, h.of_spunTo rfl rfl⟩
  | tick =>
    refine ⟨tick s.popMove, by rw [Machine.step, hm]; rfl, ?_⟩
    rw [tick_eq]
    exact ⟨rfl, h.of_spunTo rfl rfl⟩
  | keys k => exact ⟨s.popMove.setKeys k, by rw [Machine.step, hm]; rfl, rfl, h.of_spunTo rfl rfl⟩
  | quit => exact absurd hm (nextMove_ne_quit h.noQuit)

theorem Spinning.steps {e : Addr12} (k : Nat) {s : State} (h : Spinning e s) :
    ∃ t, Steps k s t ∧ SpunTo s t ∧ Spinning e t := by
  induction k generalizing s with
  | zero => exact ⟨s, (steps_zero s s).2 rfl, rfl, h⟩
  | succ k ih =>
    obtain ⟨u, hstep, hsu, hu⟩ := h.step
    obtain ⟨t, hsteps, hut, ht⟩ := ih hu
    exact ⟨t, (steps_succ k s t).2 ⟨u, hstep, hsteps⟩, hsu.trans hut, ht⟩

/-! ## Endless runs -/

theorem EndlessRun.schedule_succ {σ : Nat → State} (h : EndlessRun σ) (n : Nat) :
    (σ (n + 1)).schedule = (σ n).laterMoves :=
  ((step_next_iff _ _).1 (h n)).2

/-- Every schedule runs out. -/
theorem EndlessRun.exists_schedule_nil {σ : Nat → State} (h : EndlessRun σ) (n : Nat) : ∃ m, n ≤ m ∧ (σ m).schedule = [] := by
  induction hl : (σ n).schedule generalizing n with
  | nil => exact ⟨n, le_rfl, hl⟩
  | cons m rest ih =>
    obtain ⟨k, hk, hnil⟩ := ih (n + 1) (by rw [h.schedule_succ, State.laterMoves, hl])
    exact ⟨k, by omega, hnil⟩

theorem EndlessRun.execution {σ : Nat → State} (h : EndlessRun σ) : Execution σ fun n => (σ n).nextMove :=
  fun n => ((step_next_iff _ _).1 (h n)).1

/-- Once the listed moves are taken, the main loop moves and a tick follows. -/
theorem EndlessRun.fair {σ : Nat → State} (h : EndlessRun σ) : Fair σ fun n => (σ n).nextMove := by
  constructor
  · intro n
    obtain ⟨m, hm, hnil⟩ := h.exists_schedule_nil n
    have htick : (σ (m + 1)).schedule = [.tick] := by rw [h.schedule_succ, State.laterMoves, hnil]
    exact ⟨m + 1, by omega, by simp only [State.nextMove, htick]⟩
  · intro n _
    obtain ⟨m, hm, hnil⟩ := h.exists_schedule_nil n
    exact ⟨m, hm, by simp only [State.nextMove, hnil]⟩

end Sys2Proof.Machine
end

section
/-! The statements of spec/30_encoding.md, settled. -/

namespace Sys2Proof.Proofs

open Sys2Proof.Machine Sys2Proof.Claims

/-- Settles O1: format by format, the fields of the encoder's word are the operands. -/
theorem decodeOfEncodeIsTheInstruction : Obligations.DecodeOfEncodeIsTheInstruction :=
  fun _ hwf => decode_encode hwf

/-- Settles O2: class by class, a word is its class and the fields of its format. -/
theorem encodeOfDecodeIsTheWord : Obligations.EncodeOfDecodeIsTheWord :=
  fun _ _ h => isWordOf_of_decode h

/-- Settles O3: a decoded word is its instruction's word, which its row covers; a row fixes the fields that the decoder looks
at; and two rows with a word in common agree where both masks look, as no two rows of the table do. -/
theorem decodeAgreesWithTheOpcodeTable : Obligations.DecodeAgreesWithTheOpcodeTable := by
  refine ⟨rfl, fun w i h => ?_, fun w r hr hc => exists_instr_of_covers hr hc, fun w r hr q hq hrw hqw => ?_⟩
  · obtain ⟨hwf, rfl⟩ := isWordOf_of_decode h
    exact encode_covered hwf
  · exact opcodeTable_disjoint r hr q hq (OpcodeRow.agree_of_covers hrw hqw)

/-- Settles O4: the unmatched words by class, with the fields written as quotients and remainders. -/
theorem unmatchedWordsAreExactlyThoseOfTheRule : Obligations.UnmatchedWordsAreExactlyThoseOfTheRule := by
  intro w
  have hclass0 : w.toNat / 4096 = 0 ↔ w.toNat < 0x1000 := by omega
  rw [decode_eq_unmatched_iff, field_class, field_lastNibble, field_lastByte, hclass0]

/-- Settles O10: the decoder is total, and so are the instructions and the agents' moves. -/
theorem runningCoreAlwaysHasANextState : Obligations.RunningCoreAlwaysHasANextState :=
  ⟨decode_cases, exec_total, fun _ => exists_step_of_running⟩

/-- Settles O12: each fatal form runs its check before it writes anything. -/
theorem fatalErrorsArePreciseAndRecorded : Obligations.FatalErrorsArePreciseAndRecorded :=
  ⟨fun _ _ _ => exec_fatal, rfl⟩

/-- Settles O60: by induction on the steps, each of which stays at the jump; a schedule runs out, and rounds of one cycle and
one tick follow. -/
theorem jumpToSelfRunsForEver : Obligations.JumpToSelfRunsForEver := by
  refine ⟨fun s e hrun hend hquit k => ?_, fun σ h => ⟨h.execution, h.fair⟩⟩
  obtain ⟨t, hsteps, hspun, hspin⟩ := Spinning.steps k ⟨hrun, hend, hquit⟩
  exact ⟨t, hsteps, hspin.atEnd, hspun⟩

/-- Settles O5. -/
theorem decoderTakesTwoBytesBigEndian : Obligations.DecoderTakesTwoBytesBigEndian := by
  refine ⟨fun hi lo rest => ?_, rfl, fun _ => rfl⟩
  rw [decodeBytes, wordOfBytes_eq_append]

/-- Settles O6: the decoder evaluated on nine closed words. -/
theorem sampleWordsDecodeAsWritten : Obligations.SampleWordsDecodeAsWritten := by
  unfold Obligations.SampleWordsDecodeAsWritten
  decide

/-- Settles O7. -/
theorem stepRunsTheDecodedInstruction : Obligations.StepRunsTheDecodedInstruction :=
  fun _ _ => step_of_instr

/-- Settles O8: the reported address is `pc` before the advance. -/
theorem unmatchedWordIsALoggedNoOp : Obligations.UnmatchedWordIsALoggedNoOp := by
  intro s hm hpc hd
  rw [step_of_unmatched hm hpc hd, execUnmatched, State.advance_instrAddr]
  rfl

/-- Settles O9. -/
theorem fetchAbove4094IsFatal : Obligations.FetchAbove4094IsFatal :=
  fun _ => step_of_fetchFault

end Sys2Proof.Proofs
end

section
/-! SUPPORT. A word and its instruction, from the encoder (spec/30_encoding.md R81, R83). -/

namespace Sys2Proof.Claims

/-- The encoder's word for a well-formed instruction stands for it. -/
theorem Encodes.of_eq_encode {w : Word} {i : Instr} (hw : w = encode i) (hwf : i.wf = true) : Encodes w i :=
  ⟨hw ▸ decode_encode hwf, hw.symm⟩

end Sys2Proof.Claims
end

section
/-! SUPPORT. Where a return and a call complete, and what they do there (spec/41_system_jumps.md R101, R103). -/

namespace Sys2Proof.Machine

open Sys2Proof.Claims

@[simp] theorem zext16_toNat (nnn : Addr12) : (zext16 nnn).toNat = nnn.toNat := by
  rw [zext16_eq, BitVec.toNat_setWidth_of_le (by decide)]

theorem exec_ret_of_append {s : State} {below : List Word} {v : Word} (h : s.stack = below ++ [v]) :
    exec .ret s = .next ((s.setStack below).setPc v) := by
  have hn : fatalRecord .ret s = none := by simp [fatalRecord, h]
  rw [(ret_fatalOr s).next hn]
  simp [pcAfter, h]

theorem exec_call_of_lt {s : State} (h : s.sp < s.cfg.stackDepth) (nnn : Addr12) :
    exec (.call nnn) s = .next ((s.setStack (s.stack ++ [s.pc])).setPc (zext16 nnn)) :=
  (call_fatalOr nnn s).next (if_neg (Nat.not_le_of_lt h))

/-- What a return and a call have in common: only the stack and `pc` change. -/
theorem frame_setStack_setPc (s : State) (stack : List Word) (pc : Word) :
    Frame { nothing with pc := true, stack := true } s ((s.setStack stack).setPc pc) :=
  (((Within.refl _ s).setStack rfl stack).setPc rfl pc).toFrame

end Sys2Proof.Machine
end

section
/-! The statements of spec/41_system_jumps.md, settled. -/

namespace Sys2Proof.Proofs

open Sys2Proof.Machine Sys2Proof.Claims

/-- Settles O39: the return finds the pushed `pc` on top of the caller's stack. -/
theorem callThenReturnComesBack : Obligations.CallThenReturnComesBack :=
  fun nnn _ h => ⟨_, exec_call_of_lt h nnn, fun _ hstack => ⟨_, exec_ret_of_append hstack, rfl, rfl⟩⟩

/-- Settles O35. -/
theorem clsClearsEveryPixel : Obligations.ClsClearsEveryPixel := by
  refine ⟨.of_eq_encode rfl rfl, fun s => ⟨s.setFb Framebuffer.clear, rfl, fun x y => ?_, ?_⟩⟩
  · simp [Lit]
  · exact ((Within.refl _ s).setFb rfl _).toFrame

/-- Settles O36. -/
theorem retPopsIntoThePc : Obligations.RetPopsIntoThePc := by
  refine ⟨.of_eq_encode rfl rfl, fun s below v h => ?_, fun s h => ?_⟩
  · exact ⟨_, exec_ret_of_append h, rfl, rfl, frame_setStack_setPc s below v⟩
  · exact exec_fatal (if_pos (List.eq_nil_of_length_eq_zero h))

/-- Settles O37. -/
theorem jpSetsThePc : Obligations.JpSetsThePc := by
  refine fun nnn s => ⟨.of_eq_encode (wordNNN_eq 0x1 (by decide) nnn) rfl, s.setPc (zext16 nnn), rfl, zext16_toNat nnn, ?_⟩
  exact ((Within.refl _ s).setPc rfl _).toFrame

/-- Settles O38: the check on SP comes before the push. -/
theorem callPushesTheReturnAddress : Obligations.CallPushesTheReturnAddress := by
  refine fun nnn s => ⟨.of_eq_encode (wordNNN_eq 0x2 (by decide) nnn) rfl, fun h => ?_, fun h => ?_⟩
  · have hsp : (s.stack ++ [s.pc]).length = s.sp + 1 := List.length_append
    exact ⟨_, exec_call_of_lt h nnn, zext16_toNat nnn, rfl, hsp, frame_setStack_setPc s _ _⟩
  · exact exec_fatal (if_pos h.ge)

end Sys2Proof.Proofs
end

section
/-! SUPPORT. What a conditional skip leaves (spec/42_skips.md R120 to R124). -/

namespace Sys2Proof.Machine

open Sys2Proof.Claims

/-- An instruction that skips when `c` holds completes with `pc` 2 further exactly then, and changes nothing else. -/
theorem exists_next_of_skipIf {i : Instr} {s : State} {b : Bool} {c : Prop} [Decidable c]
    (he : exec i s = .next (s.skipIf b)) (hb : b = true ↔ c) :
    ∃ t, exec i s = .next t ∧ t.pc = (if c then s.pc + 2 else s.pc) ∧ Frame onlyPc s t := by
  refine ⟨_, he, ?_, ((Within.refl onlyPc s).skipIf rfl b).toFrame⟩
  simp only [State.skipIf_eq, State.setPc_pc, hb]

end Sys2Proof.Machine
end

section
/-! The statements of spec/42_skips.md, settled. -/

namespace Sys2Proof.Proofs

open Sys2Proof.Machine Sys2Proof.Claims

/-- Settles O40: the skips' conditions are V[X] = NN and its negation. -/
theorem immediateSkips : Obligations.ImmediateSkips := by
  refine fun x nn s => ⟨.of_eq_encode (wordXNN_eq 0x3 (by decide) x nn) rfl,
    .of_eq_encode (wordXNN_eq 0x4 (by decide) x nn) rfl, ?_, ?_⟩
  · exact exists_next_of_skipIf rfl beq_iff_eq
  · exact exists_next_of_skipIf rfl bne_iff_ne

/-- Settles O41: the skips' conditions are V[X] = V[Y] and its negation. -/
theorem registerSkips : Obligations.RegisterSkips := by
  refine fun x y s => ⟨.of_eq_encode (wordXY_eq 0x5 0 (by decide) (by decide) x y) rfl,
    .of_eq_encode (wordXY_eq 0x9 0 (by decide) (by decide) x y) rfl, ?_, ?_⟩
  · exact exists_next_of_skipIf rfl beq_iff_eq
  · exact exists_next_of_skipIf rfl bne_iff_ne

end Sys2Proof.Proofs
end

section
/-! SUPPORT. What a register write leaves, with and without a flag in VF (spec/43_alu.md R130, R131). -/

namespace Sys2Proof.Machine

open Sys2Proof.Claims

/-! ## The flags and the operand of a shift -/

theorem flagByte_decide (c : Prop) [Decidable c] : flagByte (decide c) = if c then 1 else 0 := by
  simp [flagByte]

/-- A bit in VF is the value of that bit. -/
theorem flagByte_getLsbD_toNat (b : Byte) (k : Nat) : (flagByte (b.getLsbD k)).toNat = b.toNat / 2 ^ k % 2 := by
  have hflag : ∀ f : Bool, (flagByte f).toNat = f.toNat := by decide
  rw [hflag, ← BitVec.testBit_toNat, Nat.toNat_testBit]

theorem State.shiftOperand_toNat (s : State) (x y : Reg) :
    (s.shiftOperand x y).toNat = if s.cfg.shiftIgnoresY then (s.reg x).toNat else (s.reg y).toNat :=
  apply_ite BitVec.toNat _ _ _

/-! ## V[X] alone -/

theorem frame_setReg (s : State) (x : Reg) (b : Byte) : Frame (onlyReg x) s (s.setReg x b) :=
  ((Within.refl _ s).setReg (beq_self_eq_true x) b).toFrame

/-- An instruction that writes V[X] with a byte whose bits are those of `p`. -/
theorem exists_next_of_bits {i : Instr} {s : State} {x : Reg} {b : Byte} {p : Nat → Bool}
    (he : exec i s = .next (s.setReg x b)) (hb : ∀ k, b.getLsbD k = p k) :
    ∃ t, exec i s = .next t ∧ Frame (onlyReg x) s t ∧ ∀ k, (t.reg x).getLsbD k = p k := by
  refine ⟨_, he, frame_setReg s x b, fun k => ?_⟩
  rw [State.reg_setReg_self, hb]

/-! ## V[X], then the flag in VF -/

theorem frame_setResultAndFlag (s : State) (x : Reg) (b : Byte) (f : Bool) :
    Frame (onlyRegAndVF x) s (s.setResultAndFlag x b f) :=
  ((Within.refl _ s).setResultAndFlag (by simp [onlyRegAndVF]) (by simp [onlyRegAndVF]) b f).toFrame

theorem State.setResultAndFlag_reg_vf (s : State) (x : Reg) (b : Byte) (f : Bool) :
    (s.setResultAndFlag x b f).reg vf = flagByte f := by
  rw [setResultAndFlag_reg, if_pos rfl]

theorem State.setResultAndFlag_reg_self (s : State) {x : Reg} (hx : x ≠ vf) (b : Byte) (f : Bool) :
    (s.setResultAndFlag x b f).reg x = b := by
  rw [setResultAndFlag_reg, if_neg hx, if_pos rfl]

/-- An instruction that writes V[X], whose result has the value `n`, and then the flag `f`. -/
theorem exists_next_of_resultAndFlag {i : Instr} {s : State} {x : Reg} {b : Byte} {f : Bool} {n : Nat}
    (he : exec i s = .next (s.setResultAndFlag x b f)) (hb : b.toNat = n) :
    ∃ t, exec i s = .next t ∧ (x ≠ vf → (t.reg x).toNat = n) ∧ t.reg vf = flagByte f ∧ Frame (onlyRegAndVF x) s t := by
  refine ⟨_, he, fun hx => ?_, s.setResultAndFlag_reg_vf x b f, frame_setResultAndFlag s x b f⟩
  rw [s.setResultAndFlag_reg_self hx, hb]

/-- SUB and SUBN differ only in which register is the minuend `a` and which the subtrahend `b` (R139, R141). -/
theorem exists_next_of_difference {i : Instr} {s : State} {x : Reg} {a b : Byte}
    (he : exec i s = .next (s.setResultAndFlag x (a - b) (notBorrow a b))) :
    ∃ t, exec i s = .next t ∧ (x ≠ vf → (t.reg x).toNat = (a.toNat + 256 - b.toNat) % 256) ∧
      t.reg vf = (if a.toNat ≥ b.toNat then 1 else 0) ∧ Frame (onlyRegAndVF x) s t := by
  have hdiff : (a - b).toNat = (a.toNat + 256 - b.toNat) % 256 := by bv_omega
  rw [← flagByte_decide]
  exact exists_next_of_resultAndFlag he hdiff

end Sys2Proof.Machine
end

section
/-! The statements of spec/43_alu.md, settled. -/

namespace Sys2Proof.Proofs

open Sys2Proof.Machine Sys2Proof.Claims

/-- Settles O43. -/
theorem loadsAndImmediateAdd : Obligations.LoadsAndImmediateAdd := by
  refine fun x y nn s => ⟨.of_eq_encode (wordXNN_eq 0x6 (by decide) x nn) rfl,
    .of_eq_encode (wordXNN_eq 0x7 (by decide) x nn) rfl,
    .of_eq_encode (wordXY_eq 0x8 0 (by decide) (by decide) x y) rfl, ?_, ?_, ?_⟩
  · exact ⟨_, rfl, s.reg_setReg_self x nn, frame_setReg s x nn⟩
  · refine ⟨_, rfl, ?_, frame_setReg s x (s.reg x + nn)⟩
    rw [State.reg_setReg_self, BitVec.toNat_add]
  · exact ⟨_, rfl, s.reg_setReg_self x _, frame_setReg s x _⟩

/-- Settles O44. -/
theorem logicalOperationsAreBitwise : Obligations.LogicalOperationsAreBitwise := by
  refine fun x y s => ⟨.of_eq_encode (wordXY_eq 0x8 1 (by decide) (by decide) x y) rfl,
    .of_eq_encode (wordXY_eq 0x8 2 (by decide) (by decide) x y) rfl,
    .of_eq_encode (wordXY_eq 0x8 3 (by decide) (by decide) x y) rfl, ?_, ?_, ?_⟩
  · exact exists_next_of_bits rfl fun _ => BitVec.getLsbD_or
  · exact exists_next_of_bits rfl fun _ => BitVec.getLsbD_and
  · exact exists_next_of_bits rfl fun _ => BitVec.getLsbD_xor

/-- Settles O45: the flag is the carry of the unreduced sum. -/
theorem addSetsTheCarry : Obligations.AddSetsTheCarry := by
  refine fun x y s => ⟨.of_eq_encode (wordXY_eq 0x8 4 (by decide) (by decide) x y) rfl, ?_⟩
  rw [← flagByte_decide]
  exact exists_next_of_resultAndFlag rfl (BitVec.toNat_add _ _)

/-- Settles O46: both are one difference, the operands exchanged. -/
theorem subtractionsSetNotBorrow : Obligations.SubtractionsSetNotBorrow := by
  refine fun x y s => ⟨.of_eq_encode (wordXY_eq 0x8 5 (by decide) (by decide) x y) rfl,
    .of_eq_encode (wordXY_eq 0x8 7 (by decide) (by decide) x y) rfl, ?_, ?_⟩
  · exact exists_next_of_difference rfl
  · exact exists_next_of_difference rfl

/-- Settles O47: `v` is the operand of the shift, and VF its bit 0 or its bit 7. -/
theorem shiftsMoveOneBitIntoVF : Obligations.ShiftsMoveOneBitIntoVF := by
  intro x y s v hv
  rw [← s.shiftOperand_toNat x y] at hv
  subst hv
  refine ⟨.of_eq_encode (wordXY_eq 0x8 6 (by decide) (by decide) x y) rfl,
    .of_eq_encode (wordXY_eq 0x8 14 (by decide) (by decide) x y) rfl, ?_, ?_⟩
  · have hhalf : (s.shiftOperand x y >>> 1).toNat = (s.shiftOperand x y).toNat / 2 := by
      rw [BitVec.toNat_ushiftRight, Nat.shiftRight_eq_div_pow, pow_one]
    obtain ⟨t, ht, hx, hvf, hframe⟩ := exists_next_of_resultAndFlag (i := .shr x y) rfl hhalf
    refine ⟨t, ht, hx, ?_, hframe⟩
    rw [hvf, shiftedOutRight, flagByte_getLsbD_toNat, pow_zero, Nat.div_one]
  · have hdouble : (s.shiftOperand x y <<< 1).toNat = 2 * (s.shiftOperand x y).toNat % 256 := by
      rw [BitVec.toNat_shiftLeft, Nat.shiftLeft_eq, pow_one, Nat.mul_comm]
    obtain ⟨t, ht, hx, hvf, hframe⟩ := exists_next_of_resultAndFlag (i := .shl x y) rfl hdouble
    refine ⟨t, ht, hx, ?_, hframe⟩
    rw [hvf, shiftedOutLeft, flagByte_getLsbD_toNat]
    omega

end Sys2Proof.Proofs
end

section
/-! SUPPORT. What the second drawing of a sprite does, and where DXYN completes (spec/44_index_draw.md R151 to R154). -/

namespace Sys2Proof.Machine

open Sys2Proof.Claims

/-- A drawing depends on which pixels are hit, not on how that is said. -/
theorem Drawn.congr {hits hits' : Nat → Nat → Prop} {d d' : Drawing} (h : Drawn hits d d')
    (heq : ∀ px py, hits px py ↔ hits' px py) : Drawn hits' d d' := by
  have : hits = hits' := funext₂ fun px py => propext (heq px py)
  exact this ▸ h

/-! ## The same sprite twice -/

/-- Turning the same pixels over twice restores them (R154). -/
theorem Drawn.fb_of_twice {hits : Nat → Nat → Prop} {d d' d'' : Drawing} (first : Drawn hits d d')
    (second : Drawn hits { fb := d'.fb, collision := false } d'') : d''.fb = d.fb := by
  refine Framebuffer.ext_pixel fun px py _ _ => Bool.eq_iff_iff.2 ?_
  rw [second.pixel, first.pixel]
  tauto

/-- The second drawing turns off the pixels that the first one lit (R154; log 14). -/
theorem Drawn.collision_of_twice {hits : Nat → Nat → Prop} {d d' d'' : Drawing} (first : Drawn hits d d')
    (second : Drawn hits { fb := d'.fb, collision := false } d'') :
    d''.collision = true ↔ ∃ px py, ¬ Framebuffer.pixel d.fb px py = true ∧ hits px py := by
  have hlit : ∀ px py, (Framebuffer.pixel d'.fb px py = true ∧ hits px py) ↔
      ¬ Framebuffer.pixel d.fb px py = true ∧ hits px py := fun px py => by
    rw [first.pixel]
    tauto
  simp only [second.collision, hlit, Bool.false_eq_true, false_or]

/-! ## The sprite of DXYN -/

/-- The sprite DXYN draws on `s` has a 1 on pixel (px, py) of the grid (R151, R153). -/
def State.spriteHits (s : State) (x y : Reg) (n px py : Nat) : Prop :=
  SpriteLit s ((s.reg x).toNat % 64) ((s.reg y).toNat % 32) (rowsOf s y n) px py

/-- What DXYN draws turns over the pixels its sprite has a 1 on. -/
theorem sprite_drawn (s : State) (x y : Reg) (n : Nat) :
    Drawn (s.spriteHits x y n) { fb := s.fb, collision := false } (s.sprite x y n) := by
  have hrows : s.startRow y + s.drawnRows y n ≤ 32 := by
    have : s.startRow y < 32 := Nat.mod_lt _ (by decide)
    simp only [State.drawnRows]
    omega
  have hdrawn := drawRows_drawn (s.startColumn x)
    ((List.range (s.drawnRows y n)).map fun k => s.readByte (s.i.toNat + k)) (s.startRow y) (by simpa using hrows)
    { fb := s.fb, collision := false }
  refine hdrawn.congr fun px py => ?_
  simp only [State.spriteHits, SpriteLit, rowsOf_eq, State.startColumn, State.startRow, List.length_map, List.length_range,
    List.getElem_map, List.getElem_range, exists_prop]
  constructor
  · rintro ⟨h1, h2, h3, h4, h5, h6, h7⟩
    exact ⟨h1, h2, h3, h4, h5, by omega, h7⟩
  · rintro ⟨h1, h2, h3, h4, h5, h6, h7⟩
    exact ⟨h1, h2, h3, h4, h5, by omega, h7⟩

/-- Of memory the sprite depends on the drawn rows alone (R152). -/
theorem sprite_setMem {s : State} {y : Reg} {n : Nat} {m : Memory}
    (h : ∀ k, k < rowsOf s y n → (s.setMem m).readByte (s.i.toNat + k) = s.readByte (s.i.toNat + k)) (x : Reg) :
    (s.setMem m).sprite x y n = s.sprite x y n := by
  have hbytes : ((List.range (s.drawnRows y n)).map fun k => (s.setMem m).readByte (s.i.toNat + k)) =
      (List.range (s.drawnRows y n)).map fun k => s.readByte (s.i.toNat + k) :=
    List.map_congr_left fun k hk => h k (List.mem_range.1 hk)
  exact congrArg (drawRows (s.startColumn x) (s.startRow y) · { fb := s.fb, collision := false }) hbytes

/-- Other registers of the same start position draw the same sprite. -/
theorem spriteHits_congr {s t : State} {x y : Reg} {n : Nat} (hi : t.i = s.i) (hmem : t.mem = s.mem) (hcfg : t.cfg = s.cfg)
    (hx : (t.reg x).toNat % 64 = (s.reg x).toNat % 64) (hy : (t.reg y).toNat % 32 = (s.reg y).toNat % 32) :
    t.spriteHits x y n = s.spriteHits x y n := by
  funext px py
  simp only [State.spriteHits, SpriteLit, rowsOf, hi, State.readByte_congr hmem hcfg, hx, hy]

/-! ## DXYN -/

/-- What DXYN completes in: its sprite drawn, then the collision in VF (R151). -/
def State.drawSprite (s : State) (x y : Reg) (n : Nat) : State :=
  (s.setFb (s.sprite x y n).fb).setReg vf (flagByte (s.sprite x y n).collision)

theorem fatalRecord_drw_eq_none (x y : Reg) (n : Nat) (s : State) :
    fatalRecord (.drw x y n) s = none ↔ rowsOf s y n = 0 ∨ s.i.toNat + rowsOf s y n - 1 ≤ 4095 := by
  simp only [fatalRecord, ite_eq_right_iff, reduceCtorEq, imp_false]
  omega

theorem exec_drw_inRange (x : Reg) {y : Reg} {n : Nat} {s : State}
    (h : rowsOf s y n = 0 ∨ s.i.toNat + rowsOf s y n - 1 ≤ 4095) : exec (.drw x y n) s = .next (s.drawSprite x y n) :=
  (drw_fatalOr x y n s).next ((fatalRecord_drw_eq_none x y n s).2 h)

theorem exec_drw_outOfRange (x : Reg) {y : Reg} {n : Nat} {s : State}
    (h : 0 < rowsOf s y n ∧ s.i.toNat + rowsOf s y n - 1 > 4095) :
    exec (.drw x y n) s = .next (haltedAt s ⟨.memReadOutOfRange, s.pc - 2, some (max s.i.toNat 4096), none⟩) :=
  exec_fatal (if_pos h)

theorem flagByte_eq_one_iff (f : Bool) : flagByte f = 1 ↔ f = true := by
  cases f <;> decide

theorem flagByte_eq_zero_iff (f : Bool) : flagByte f = 0 ↔ ¬ f = true := by
  cases f <;> decide

theorem State.reg_vf_drawSprite (s : State) (x y : Reg) (n : Nat) :
    (s.drawSprite x y n).reg vf = flagByte (s.sprite x y n).collision :=
  State.reg_setReg_self _ _ _

theorem sprite_collision_iff (s : State) (x y : Reg) (n : Nat) :
    (s.sprite x y n).collision = true ↔ ∃ px py, Lit s px py ∧ s.spriteHits x y n px py := by
  rw [(sprite_drawn s x y n).collision]
  simp only [Bool.false_eq_true, false_or, Lit]

/-- DXYN changes VF and the framebuffer only. -/
theorem frame_drawSprite (s : State) (x y : Reg) (n : Nat) :
    Frame { nothing with reg := fun r => r == vf, fb := true } s (s.drawSprite x y n) :=
  (((Within.refl _ s).setFb rfl _).setReg (beq_self_eq_true vf) _).toFrame

end Sys2Proof.Machine
end

section
/-! The statements of spec/44_index_draw.md, settled. -/

namespace Sys2Proof.Proofs

open Sys2Proof.Machine Sys2Proof.Claims

/-- Settles O49: the sprite turns over exactly the pixels it has a 1 on, and VF is the collision. -/
theorem drawXorsTheSpriteAndReportsCollision : Obligations.DrawXorsTheSpriteAndReportsCollision := by
  intro x y n s
  have hwf : (Instr.drw x y n.val).wf = true := decide_eq_true (Nat.le_of_lt_succ n.isLt)
  refine ⟨.of_eq_encode (wordXYN_eq 0xD (by decide) n x y) hwf, fun hin => ?_, exec_drw_outOfRange x⟩
  refine ⟨s.drawSprite x y n, exec_drw_inRange x hin, (sprite_drawn s x y n).pixel, ?_, frame_drawSprite s x y n⟩
  have hcoll := sprite_collision_iff s x y n
  rw [s.reg_vf_drawSprite, flagByte_eq_one_iff, flagByte_eq_zero_iff]
  by_cases h : (s.sprite x y n).collision = true
  · exact .inl ⟨h, hcoll.1 h⟩
  · exact .inr ⟨h, mt hcoll.2 h⟩

/-- Settles O50: the check and the sprite see the drawn rows only. -/
theorem drawReadsAndChecksExactlyItsRows : Obligations.DrawReadsAndChecksExactlyItsRows := by
  refine fun x y n s => ⟨exec_drw_outOfRange x, fun hin => ⟨s.drawSprite x y n, exec_drw_inRange x hin, rfl, ?_⟩⟩
  intro m hm
  have hin' : rowsOf (s.setMem m) y n = 0 ∨ (s.setMem m).i.toNat + rowsOf (s.setMem m) y n - 1 ≤ 4095 := hin
  rw [exec_drw_inRange x hin', State.drawSprite, sprite_setMem hm x]
  rfl

/-- Settles O51: both draws turn over the same pixels. -/
theorem drawingTwiceRestoresTheFramebuffer : Obligations.DrawingTwiceRestoresTheFramebuffer := by
  intro x y n s hin
  refine ⟨s.drawSprite x y n, exec_drw_inRange x hin, fun v hx hy => ?_⟩
  have hrows : rowsOf ((s.drawSprite x y n).setV v) y n = rowsOf s y n := congrArg (fun y0 => min n (32 - y0)) hy
  have hhits : ((s.drawSprite x y n).setV v).spriteHits x y n = s.spriteHits x y n := spriteHits_congr rfl rfl rfl hx hy
  have hfirst := sprite_drawn s x y n
  have hsecond := sprite_drawn ((s.drawSprite x y n).setV v) x y n
  rw [hhits] at hsecond
  refine ⟨_, exec_drw_inRange x (by rwa [hrows]), hfirst.fb_of_twice hsecond, ?_⟩
  rw [State.reg_vf_drawSprite, flagByte_eq_one_iff]
  exact hfirst.collision_of_twice hsecond

/-- Settles O48. -/
theorem ldISetsTheIndex : Obligations.LdISetsTheIndex := by
  refine fun nnn s => ⟨.of_eq_encode (wordNNN_eq 0xA (by decide) nnn) rfl, s.setI (zext16 nnn), rfl, zext16_toNat nnn, ?_⟩
  exact ((Within.refl _ s).setI rfl _).toFrame

end Sys2Proof.Proofs
end

section
/-! SUPPORT. Which bytes name a key, and the two key skips (spec/45_key_skips.md R170 to R172). -/

namespace Sys2Proof.Machine

/-- The value of a key id names that key. -/
theorem KeySet.held_val (ks : KeySet) (k : Fin 16) : KeySet.held ks k.val = ks[k.val] :=
  dif_pos k.isLt

/-- A value above 15 names no key: nothing is masked off it (R172). -/
theorem KeySet.held_of_gt (ks : KeySet) {k : Nat} (hk : k > 15) : KeySet.held ks k = false :=
  dif_neg (by omega)

theorem exec_skp (x : Reg) (s : State) : exec (.skp x) s = .next (s.skipIf (KeySet.held s.keys (s.reg x).toNat)) := rfl

theorem exec_sknp (x : Reg) (s : State) : exec (.sknp x) s = .next (s.skipIf !KeySet.held s.keys (s.reg x).toNat) := rfl

end Sys2Proof.Machine
end

section
/-! The statements of spec/45_key_skips.md, settled. -/

namespace Sys2Proof.Proofs

open Sys2Proof.Machine Sys2Proof.Claims

/-- Settles O42: the skips' conditions are the key's bit and its negation; above 15 there is no key, so the bit reads false. -/
theorem keySkips : Obligations.KeySkips := by
  refine fun x s => ⟨.of_eq_encode (wordX_eq 0xE 0x9E (by decide) (by decide) x) rfl,
    .of_eq_encode (wordX_eq 0xE 0xA1 (by decide) (by decide) x) rfl, fun k hk => ?_, fun hgt => ?_⟩
  · have hheld : KeySet.held s.keys (s.reg x).toNat = s.keys[k.val] := by rw [hk, KeySet.held_val]
    constructor
    · exact exists_next_of_skipIf (exec_skp x s) (by rw [hheld])
    · simp only [← ite_not (s.keys[k.val] = true)]
      exact exists_next_of_skipIf (exec_sknp x s) (by rw [hheld, Bool.not_eq_true', Bool.not_eq_true])
  · have hheld : KeySet.held s.keys (s.reg x).toNat = false := KeySet.held_of_gt s.keys hgt
    constructor
    · rw [exec_skp, hheld]
      rfl
    · exact exists_next_of_skipIf (c := True) (exec_sknp x s) (by simp [hheld])

end Sys2Proof.Proofs
end

section
/-! SUPPORT. What the class F instructions complete in: the lowest key, the decimal digits and the registers moved to and from
memory (spec/46_fx_ops.md R183 to R188). -/

namespace Sys2Proof.Machine

open Sys2Proof.Claims

/-! ## FX1E and FX0A -/

/-- I is kept mod 2^16, not masked to 12 bits (R30, R183). -/
theorem index_add_toNat (i : Word) (b : Byte) : (i + b.setWidth 16).toNat = (i.toNat + b.toNat) % 65536 := by
  rw [BitVec.toNat_add, BitVec.toNat_setWidth_of_le (by decide)]

theorem KeySet.lowest_eq_none_of_no_key {ks : KeySet} (h : ∀ k : Fin 16, ks[k.val] = false) : KeySet.lowest ks = none := by
  rw [← Option.not_isSome_iff_eq_none, KeySet.lowest_isSome_iff]
  rintro ⟨k, hk⟩
  rw [h k] at hk
  cases hk

theorem KeySet.lowest_eq_some_of_key {ks : KeySet} {k : Fin 16} (hk : ks[k.val] = true)
    (hbelow : ∀ j : Fin 16, j < k → ks[j.val] = false) : KeySet.lowest ks = some k.val := by
  refine (KeySet.lowest_eq_some ks k.val).2 ⟨(KeySet.held_val ks k).trans hk, fun j hj => ?_⟩
  exact (KeySet.held_val ks ⟨j, hj.trans k.isLt⟩).trans (hbelow _ hj)

/-! ## FX33 -/

/-- `s` with the decimal digits of V[X] stored from I on: what FX33 completes in (R186). -/
def State.storeDigits (s : State) (x : Reg) : State :=
  s.setMem (Memory.writeBlock s.cfg s.i.toNat (bcdDigits (s.reg x)) s.mem)

theorem fatalRecord_ldB_eq_none (x : Reg) (s : State) : fatalRecord (.ldB x) s = none ↔ s.i.toNat + 2 ≤ 4095 := by
  simp [fatalRecord]

theorem exec_ldB_inRange {x : Reg} {s : State} (h : s.i.toNat + 2 ≤ 4095) : exec (.ldB x) s = .next (s.storeDigits x) :=
  (ldB_fatalOr x s).next ((fatalRecord_ldB_eq_none x s).2 h)

/-- No digit is too large for its byte. -/
theorem bcdDigits_toNat (b : Byte) :
    (bcdDigits b).map BitVec.toNat = [b.toNat / 100, b.toNat / 10 % 10, b.toNat % 10] := by
  have hb := b.isLt
  simp only [bcdDigits, List.map_cons, List.map_nil, BitVec.toNat_ofNat, List.cons.injEq, and_true]
  omega

/-- Each digit stands at its address (R186). -/
theorem State.toNat_readByte_storeDigits (s : State) (x : Reg) {k n : Nat}
    (hn : [(s.reg x).toNat / 100, (s.reg x).toNat / 10 % 10, (s.reg x).toNat % 10][k]? = some n) :
    ((s.storeDigits x).readByte (s.i.toNat + k)).toNat = n := by
  rw [← bcdDigits_toNat, List.getElem?_map, Option.map_eq_some_iff] at hn
  obtain ⟨b, hb, rfl⟩ := hn
  obtain ⟨hk, -⟩ := List.getElem?_eq_some_iff.1 hb
  rw [s.getElem?_eq_readByte_writeBlock s.i.toNat _ hk] at hb
  exact congrArg BitVec.toNat (Option.some.inj hb)

/-! ## FX55 and FX65 -/

theorem exec_ldMemV_outOfRange {x : Reg} {s : State} (h : s.i.toNat + x.val > 4095) :
    exec (.ldMemV x) s = .next (haltedAt s ⟨.memWriteOutOfRange, s.pc - 2, some (max s.i.toNat 4096), none⟩) :=
  exec_fatal (if_pos h)

/-- `s` with V0 to VX loaded from I on: what FX65 completes in (R188). -/
def State.loadRegs (s : State) (x : Reg) : State :=
  s.setV (setRegsFrom 0 ((List.range (x.val + 1)).map fun k => s.readByte (s.i.toNat + k)) s.v)

theorem fatalRecord_ldVMem_eq_none (x : Reg) (s : State) :
    fatalRecord (.ldVMem x) s = none ↔ s.i.toNat + x.val ≤ 4095 := by
  simp [fatalRecord]

theorem exec_ldVMem_inRange {x : Reg} {s : State} (h : s.i.toNat + x.val ≤ 4095) :
    exec (.ldVMem x) s = .next (s.loadRegs x) :=
  (ldVMem_fatalOr x s).next ((fatalRecord_ldVMem_eq_none x s).2 h)

theorem exec_ldVMem_outOfRange {x : Reg} {s : State} (h : s.i.toNat + x.val > 4095) :
    exec (.ldVMem x) s = .next (haltedAt s ⟨.memReadOutOfRange, s.pc - 2, some (max s.i.toNat 4096), none⟩) :=
  exec_fatal (if_pos h)

/-- Each loaded register is the byte at its address (R188). -/
theorem State.reg_loadRegs (s : State) {x r : Reg} (hr : r ≤ x) :
    (s.loadRegs x).reg r = s.readByte (s.i.toNat + r.val) := by
  have hlt : r.val < x.val + 1 := Nat.lt_succ_of_le hr
  rw [State.loadRegs, State.reg, State.setV_v, setRegsFrom_getElem, dif_pos (by simpa using hlt)]
  simp

end Sys2Proof.Machine
end

section
/-! The statements of spec/46_fx_ops.md, settled. -/

namespace Sys2Proof.Proofs

open Sys2Proof.Machine Sys2Proof.Claims

/-- Settles O28: FX65 reads the bytes FX55 stored, which stand in any later state that kept them. -/
theorem blockMoveRoundTrip : Obligations.BlockMoveRoundTrip := by
  refine fun x s => ⟨fun hin => ⟨s.storeRegs x, exec_ldMemV_inRange hin, rfl, fun t hi hkept => ?_⟩, fun hout =>
    ⟨exec_ldMemV_outOfRange hout, exec_ldVMem_outOfRange hout⟩⟩
  have hti : t.i = s.i := hi
  refine ⟨t.loadRegs x, exec_ldVMem_inRange (by rwa [hti]), rfl, fun r hr => ?_⟩
  calc (t.loadRegs x).reg r
    _ = t.readByte (s.i.toNat + r.val) := by rw [t.reg_loadRegs hr, hti]
    _ = (s.storeRegs x).readByte (s.i.toNat + r.val) := hkept r.val hr
    _ = s.reg r := s.readByte_storeRegs hr

/-- Settles O52. -/
theorem timerMoves : Obligations.TimerMoves := by
  refine fun x s => ⟨.of_eq_encode (wordX_eq 0xF 0x07 (by decide) (by decide) x) rfl,
    .of_eq_encode (wordX_eq 0xF 0x15 (by decide) (by decide) x) rfl,
    .of_eq_encode (wordX_eq 0xF 0x18 (by decide) (by decide) x) rfl, ?_, ?_, ?_⟩
  · exact ⟨_, rfl, s.reg_setReg_self x s.dt, frame_setReg s x s.dt⟩
  · exact ⟨_, rfl, rfl, ((Within.refl _ s).setDt rfl _).toFrame⟩
  · exact ⟨_, rfl, rfl, ((Within.refl _ s).setSt rfl _).toFrame⟩

/-- Settles O53: the flag is on the unreduced sum, and its write to VF is the last. -/
theorem addIFlagsTheOverflow : Obligations.AddIFlagsTheOverflow := by
  refine fun x s => ⟨.of_eq_encode (wordX_eq 0xF 0x1E (by decide) (by decide) x) rfl,
    _, rfl, index_add_toNat s.i (s.reg x), ?_, ?_⟩
  · rw [State.reg_setReg_self, indexOverflow, flagByte_decide]
  · exact (((Within.refl _ s).setI rfl _).setReg (beq_self_eq_true vf) _).toFrame

/-- Settles O54: the two answers of the lowest key down. -/
theorem keyWaitSpinsOrTakesTheLowestKey : Obligations.KeyWaitSpinsOrTakesTheLowestKey := by
  refine fun x s => ⟨.of_eq_encode (wordX_eq 0xF 0x0A (by decide) (by decide) x) rfl, fun hnone => ?_, fun k hk hbelow => ?_⟩
  · refine ⟨s.setPc (s.pc - 2), ?_, rfl, ((Within.refl onlyPc s).setPc rfl _).toFrame⟩
    rw [exec_ldVK, KeySet.lowest_eq_none_of_no_key hnone]
    rfl
  · refine ⟨s.setReg x (BitVec.ofNat 8 k.val), ?_, ?_, frame_setReg s x _⟩
    · rw [exec_ldVK, KeySet.lowest_eq_some_of_key hk hbelow]
      rfl
    · rw [State.reg_setReg_self, BitVec.toNat_ofNat, Nat.mod_eq_of_lt (by omega)]

/-- Settles O55. -/
theorem ldFPointsAtTheGlyph : Obligations.LdFPointsAtTheGlyph :=
  fun x s hwf => ⟨.of_eq_encode (wordX_eq 0xF 0x29 (by decide) (by decide) x) rfl,
    _, rfl, glyphAddr_toNat hwf (s.reg x), ((Within.refl _ s).setI rfl _).toFrame⟩

/-- Settles O57: the block write stores the three digits, and the frame is the instruction's own. -/
theorem ldBStoresTheDecimalDigits : Obligations.LdBStoresTheDecimalDigits := by
  refine fun x s => ⟨.of_eq_encode (wordX_eq 0xF 0x33 (by decide) (by decide) x) rfl, fun hin => ?_, fun hout =>
    exec_fatal (if_pos hout)⟩
  have hexec := exec_ldB_inRange (x := x) hin
  refine ⟨s.storeDigits x, hexec, ?_, ?_, ?_, ?_⟩
  · exact s.toNat_readByte_storeDigits x (k := 0) rfl
  · exact s.toNat_readByte_storeDigits x (k := 1) rfl
  · exact s.toNat_readByte_storeDigits x (k := 2) rfl
  · exact (within_of_exec ((fatalRecord_ldB_eq_none x s).2 hin) hexec).toFrame

/-- Settles O58. -/
theorem blockStoreWritesTheRegisters : Obligations.BlockStoreWritesTheRegisters := by
  refine fun x s => ⟨.of_eq_encode (wordX_eq 0xF 0x55 (by decide) (by decide) x) rfl, fun hin => ?_, exec_ldMemV_outOfRange⟩
  have hexec := exec_ldMemV_inRange hin
  refine ⟨s.storeRegs x, hexec, fun r => s.readByte_storeRegs, ?_⟩
  exact (within_of_exec ((fatalRecord_ldMemV_eq_none x s).2 hin) hexec).toFrame

/-- Settles O59. -/
theorem blockLoadReadsTheRegisters : Obligations.BlockLoadReadsTheRegisters := by
  refine fun x s => ⟨.of_eq_encode (wordX_eq 0xF 0x65 (by decide) (by decide) x) rfl, fun hin => ?_, exec_ldVMem_outOfRange⟩
  have hexec := exec_ldVMem_inRange hin
  refine ⟨s.loadRegs x, hexec, fun r => s.reg_loadRegs, ?_⟩
  exact (within_of_exec ((fatalRecord_ldVMem_eq_none x s).2 hin) hexec).toFrame

end Sys2Proof.Proofs
end

section
/-! SUPPORT. The moves of the ticker and the host, ticks in a row, the steps of a halted core, and an execution's moves as
scheduled ones (spec/60_exceptions.md R212, R226 to R228, R233, R236). -/

namespace Sys2Proof.Machine

open Sys2Proof.Claims

/-! ## One move -/

theorem step_of_tick {s : State} (hm : s.nextMove = .tick) : step s = .next (tick s.popMove) := by
  rw [step, hm, takeMove]

theorem step_of_keys {s : State} {k : KeySet} (hm : s.nextMove = .keys k) : step s = .next (s.popMove.setKeys k) := by
  rw [step, hm, takeMove]

theorem step_of_quit {s : State} (hm : s.nextMove = .quit) : step s = .fault .hostQuit := by
  rw [step, hm, takeMove]

theorem step_of_halted {s : State} {r : FaultRecord} (hhalt : s.status = .halted r) (hm : s.nextMove = .mainLoop) :
    step s = .fault (.coreHalted r) := by
  have hhalt' : s.popMove.status = .halted r := hhalt
  rw [step, hm, takeMove, mainLoopTurn, hhalt']

/-- A cycle scheduled on a running core runs the instruction at `pc`, whatever else is scheduled (R90). -/
theorem step_mainLoop_cons {s : State} {i : Instr} (hrun : s.status = .running) (hpc : s.pc.toNat ≤ 4094)
    (hd : decode (wordAtPc s) = .instr i) (rest : List Move) :
    step (s.setSchedule (.mainLoop :: rest)) = exec i (s.advance.setSchedule rest) :=
  step_of_instr ⟨hrun, rfl⟩ hpc hd

theorem step_tick_cons (s : State) (rest : List Move) :
    step (s.setSchedule (.tick :: rest)) = .next ((tick s).setSchedule rest) := by
  rw [step_cons, takeMove, tick_eq, tick_eq]
  rfl

theorem Moves.step_cons {m : Move} {s t : State} (h : Moves m s t) (rest : List Move) :
    step (s.setSchedule (m :: rest)) = .next (t.setSchedule rest) :=
  (takeMove_setSchedule m (s.setSchedule []) _ rest h).2

theorem Steps.cons {k : Nat} {s t u : State} (h : step s = .next u) (hs : Steps k u t) : Steps (k + 1) s t :=
  (steps_succ k s t).2 ⟨u, h, hs⟩

theorem Steps.of_step {s t : State} (h : step s = .next t) : Steps 1 s t :=
  .cons h ((steps_zero t t).2 rfl)

theorem Steps.trans {j k : Nat} {s t u : State} (h : Steps j s u) (hs : Steps k u t) : Steps (j + k) s t :=
  (steps_add j k s t).2 ⟨u, h, hs⟩

/-! ## Ticks -/

theorem toNat_dt_tick (s : State) : (tick s).dt.toNat = s.dt.toNat - 1 := by
  rw [tick_eq]
  exact decrementClamped_toNat s.dt

theorem toNat_st_tick (s : State) :
    (tick s).st.toNat = if s.cfg.soundTimerDecays then s.st.toNat - 1 else s.st.toNat := by
  rw [tick_eq, State.setSt_st, apply_ite BitVec.toNat, decrementClamped_toNat]

theorem spunTo_tick (s : State) : SpunTo s (tick s) := by
  rw [tick_eq]
  rfl

theorem toNat_dt_ticks (n : Nat) (s : State) : (tick^[n] s).dt.toNat = s.dt.toNat - n := by
  induction n with
  | zero => rfl
  | succ n ih => rw [Function.iterate_succ_apply', toNat_dt_tick, ih, Nat.sub_sub]

theorem spunTo_ticks (n : Nat) (s : State) : SpunTo s (tick^[n] s) := by
  induction n with
  | zero => rfl
  | succ n ih =>
    rw [Function.iterate_succ_apply']
    exact ih.trans (spunTo_tick _)

theorem steps_ticks (n : Nat) (s : State) (rest : List Move) :
    Steps n (s.setSchedule (List.replicate n .tick ++ rest)) ((tick^[n] s).setSchedule rest) := by
  induction n generalizing s with
  | zero => exact (steps_zero _ _).2 rfl
  | succ n ih => exact .cons (step_tick_cons s _) (ih (tick s))

/-! ## A halted core -/

/-- On a halted core only the ticker and the host move. -/
theorem spunTo_of_step_halted {s t : State} {r : FaultRecord} (hhalt : s.status = .halted r) (h : step s = .next t) :
    SpunTo s t := by
  have hturn : ¬ MainLoopTurn s := by
    rintro ⟨hrun, -⟩
    rw [hhalt] at hrun
    cases hrun
  cases step_cases h with
  | fetchFault hm => exact absurd hm hturn
  | instr hm => exact absurd hm hturn
  | unmatched hm => exact absurd hm hturn
  | tick hm =>
    rw [tick_eq]
    rfl
  | keys k hm => rfl

theorem SpunTo.status {s t : State} (h : SpunTo s t) : t.status = s.status := by
  rw [h]

theorem spunTo_of_steps_halted {k : Nat} {s t : State} {r : FaultRecord} (hhalt : s.status = .halted r)
    (h : Steps k s t) : SpunTo s t := by
  induction k generalizing s with
  | zero =>
    obtain rfl := (steps_zero s t).1 h
    rfl
  | succ k ih =>
    obtain ⟨u, hstep, hsteps⟩ := (steps_succ k s t).1 h
    have hsu := spunTo_of_step_halted hhalt hstep
    exact hsu.trans (ih (hsu.status.trans hhalt) hsteps)

/-! ## The reason of an instruction's fatal error -/

/-- The one reason R214 lets an instruction raise. -/
def reasonOf : Instr → Option FatalReason
  | .ret => some .stackUnderflow
  | .call _ => some .stackOverflow
  | .drw _ _ _ | .ldVMem _ => some .memReadOutOfRange
  | .ldB _ | .ldMemV _ => some .memWriteOutOfRange
  | _ => none

theorem reasonOf_of_fatalRecord {i : Instr} {s : State} {r : FaultRecord} (h : fatalRecord i s = some r) :
    reasonOf i = some r.reason := by
  cases i
  case ret | call | drw | ldVMem | ldB | ldMemV =>
    obtain ⟨-, hr⟩ := Option.ite_none_right_eq_some.1 h
    cases hr
    rfl
  all_goals cases h

/-- A running core that an instruction halts was halted with the record of the table of R211. -/
theorem fatalRecord_of_exec_halted {i : Instr} {s t : State} {r : FaultRecord} (hrun : s.status = .running)
    (he : exec i s = .next t) (hhalt : t.status = .halted r) : fatalRecord i s = some r := by
  obtain ⟨q, hq, rfl⟩ | ⟨-, hw⟩ := exec_cases he
  · cases hhalt
    exact hq
  · rw [hw.status, hrun] at hhalt
    cases hhalt

/-! ## The timer read -/

/-- What the ticker and the host may change reaches no fetch: the instruction at `pc` stays the same (R90). -/
theorem SpunTo.step_mainLoop_cons {s t : State} {i : Instr} (h : SpunTo s t) (hrun : s.status = .running)
    (hpc : s.pc.toNat ≤ 4094) (hd : decode (wordAtPc s) = .instr i) (rest : List Move) :
    step (t.setSchedule (.mainLoop :: rest)) = exec i (t.advance.setSchedule rest) := by
  have hrun' : t.status = .running := h.status.trans hrun
  have hpc' : t.pc = s.pc := by rw [h]
  have hword : wordAtPc t = wordAtPc s := by
    rw [h]
    rfl
  exact Machine.step_mainLoop_cons hrun' (by rwa [hpc']) (by rwa [hword]) rest

/-- `s` once FX07 at its `pc` has read DT into V[X] (R180). -/
def State.readTimer (s : State) (x : Reg) : State := s.advance.setReg x s.dt

theorem State.reg_readTimer (s : State) (x : Reg) : (s.readTimer x).reg x = s.dt :=
  State.reg_setReg_self _ _ _

/-- FX07 reads DT after the ticks that fall before it (R228). -/
theorem steps_ticks_read {x : Reg} {s : State} (j : Nat) (hrun : s.status = .running) (hpc : s.pc.toNat ≤ 4094)
    (hd : decode (wordAtPc s) = .instr (.ldVDt x)) (rest : List Move) :
    Steps (j + 1) (s.setSchedule (List.replicate j .tick ++ .mainLoop :: rest))
      (((tick^[j] s).readTimer x).setSchedule rest) :=
  (steps_ticks j s _).trans (.of_step ((spunTo_ticks j s).step_mainLoop_cons hrun hpc hd rest))

/-- A tick after the read differs from one before it in the value read alone (R63, R228). -/
theorem tick_readTimer (s : State) (x : Reg) : tick (s.readTimer x) = ((tick s).readTimer x).setReg x s.dt := by
  rw [State.readTimer, State.readTimer, State.setReg_setReg_self, tick_eq, tick_eq]
  rfl

/-! ## Executions -/

/-- A finite beginning of an execution is a run with its moves scheduled, whatever is scheduled after them (R228). -/
theorem Execution.steps {σ : Nat → State} {μ : Nat → Move} (h : Execution σ μ) (n : Nat) (rest : List Move) :
    Steps n ((σ 0).setSchedule ((List.range n).map μ ++ rest)) ((σ n).setSchedule rest) := by
  induction n generalizing rest with
  | zero => exact (steps_zero _ _).2 rfl
  | succ n ih =>
    rw [List.range_succ, List.map_append, List.append_assoc]
    exact (ih (μ n :: rest)).trans (.of_step ((h n).step_cons rest))

end Sys2Proof.Machine
end

section
/-! The statements of spec/60_exceptions.md, settled. -/

namespace Sys2Proof.Proofs

open Sys2Proof.Machine Sys2Proof.Claims

/-- Settles O11: on a halted core only the ticker and the host move, step by step. -/
theorem haltedCoreNeverResumes : Obligations.HaltedCoreNeverResumes := by
  refine ⟨fun s r => step_of_halted, fun k s t r hhalt hsteps => ?_⟩
  rw [spunTo_of_steps_halted hhalt hsteps]
  exact ⟨hhalt, rfl, rfl, rfl, rfl, rfl, rfl, rfl, rfl⟩

/-- Settles O13: the record is the one of the table of R211, whose reason the instruction decides. -/
theorem eachInstructionRaisesOnlyItsReason : Obligations.EachInstructionRaisesOnlyItsReason := by
  intro i s t r hrun he hhalt
  have hreason := reasonOf_of_fatalRecord (fatalRecord_of_exec_halted hrun he hhalt)
  generalize r.reason = reason at hreason ⊢
  cases i
  case ret | call | drw | ldVMem | ldB | ldMemV =>
    cases hreason
    simp
  all_goals cases hreason

/-- Settles O30. -/
theorem ticksNeverTakeTheTimerBelowZero : Obligations.TicksNeverTakeTheTimerBelowZero := by
  intro n s rest hsched
  refine ⟨(tick^[n] s).setSchedule rest, ?_, toNat_dt_ticks n s, rfl⟩
  have hsteps := steps_ticks n s rest
  rwa [← hsched, State.setSchedule_self] at hsteps

/-- Settles O31: the reads with one, no and `j` ticks before them, and an execution's moves scheduled one by one. -/
theorem tickBeforeOrAfterTheRead : Obligations.TickBeforeOrAfterTheRead := by
  refine ⟨fun x s hrun hpc hd => ?_, fun x y j s hrun hpc hwrite hread => ?_, fun σ μ h n => ?_⟩
  · refine ⟨((tick s).readTimer x).setSchedule [], (tick (s.readTimer x)).setSchedule [],
      steps_ticks_read 1 hrun hpc hd [],
      (steps_ticks_read 0 hrun hpc hd [.tick]).trans (steps_ticks 1 (s.readTimer x) []), ?_, ?_, toNat_dt_tick s, ?_⟩
    · rw [State.setSchedule_reg, State.reg_readTimer, toNat_dt_tick]
    · rw [State.setSchedule_reg, tick_readTimer, State.reg_setReg_self]
    · rw [tick_readTimer]
      rfl
  · have hpc' : (s.pc + 2).toNat ≤ 4094 := by bv_omega
    have hfirst := step_mainLoop_cons hrun (by omega) hwrite (List.replicate j .tick ++ [.mainLoop])
    have hthen := steps_ticks_read (s := s.advance.setDt (s.reg x)) j hrun hpc' hread []
    refine ⟨_, .cons hfirst hthen, ?_⟩
    rw [State.setSchedule_reg, State.reg_readTimer, toNat_dt_ticks]
    rfl
  · simpa using h.steps n []

/-- Settles O29. -/
theorem tickDecrementsAndClampsAtZero : Obligations.TickDecrementsAndClampsAtZero := by
  refine fun s hm => ⟨tick s.popMove, step_of_tick hm, toNat_dt_tick s.popMove, toNat_st_tick s.popMove, ?_⟩
  rw [tick_eq]
  rfl

/-- Settles O34. -/
theorem hostMovesChangeOnlyTheKeys : Obligations.HostMovesChangeOnlyTheKeys :=
  ⟨fun _ _ => step_of_keys, fun _ => step_of_quit⟩

end Sys2Proof.Proofs
end

section
/-! SUPPORT. What a boot comes to, and the state it starts (spec/60_exceptions.md R219; spec/70_reset_and_hazards.md R251,
R252). -/

namespace Sys2Proof.Machine

/-! ## Boot, case by case -/

/-- The state of R44 for the parameters `cfg` with `image` loaded at PROG_BASE (R251). -/
def State.loaded (cfg : Config) (image : List Byte) : State :=
  (State.initial cfg).setMem (Memory.writeBlock cfg progBase image [])

theorem boot_of_tooLarge (hw : Config) (q : QuirkConfig) {image : List Byte} (h : image.length > progMax) :
    boot hw (some image) (some q) = .failed .romTooLarge :=
  if_pos h

theorem boot_of_fits (hw : Config) (q : QuirkConfig) {image : List Byte} (h : image.length ≤ progMax) :
    boot hw (some image) (some q) = .started (State.loaded (bootConfig hw q) image) :=
  if_neg (Nat.not_lt.2 h)

/-- A boot that starts the machine had a configuration and an image that fits, and started the loaded state. -/
theorem exists_loaded_of_boot_started {hw : Config} {image : Option (List Byte)} {quirk : Option QuirkConfig} {s : State}
    (h : boot hw image quirk = .started s) :
    ∃ bytes q, bytes.length ≤ progMax ∧ s = State.loaded (bootConfig hw q) bytes := by
  cases quirk with
  | none => cases h
  | some q =>
    cases image with
    | none => cases h
    | some bytes =>
      refine ⟨bytes, q, Nat.not_lt.1 fun hlarge => ?_, boot_started h⟩
      rw [boot_of_tooLarge hw q hlarge] at h
      cases h

/-! ## The loaded state -/

theorem State.initial_inv {cfg : Config} (h : cfg.wf = true) : (State.initial cfg).Inv where
  cfg_wf := h
  mem_wf := ⟨List.Pairwise.nil, List.forall_mem_nil _⟩
  stack_depth := Nat.zero_le _
  stack_addr := List.forall_mem_nil _
  pc_bound := (by decide : (BitVec.ofNat 16 progBase).toNat ≤ 0x1002)
  halted_record _ hr := nomatch hr

theorem State.Inv.setMem {s : State} (h : s.Inv) {m : Memory} (hm : Memory.wf s.cfg m) : (s.setMem m).Inv where
  __ := h
  mem_wf := hm

/-- An image that fits ends at address 4095 at the latest, so memory keeps its canonical form (R50, R252). -/
theorem State.loaded_inv {cfg : Config} (h : cfg.wf = true) {image : List Byte} (hfits : image.length ≤ progMax) :
    (State.loaded cfg image).Inv := by
  have hinv := State.initial_inv h
  have hend : progBase + image.length ≤ 4096 := by
    simp only [progMax, progBase] at hfits ⊢
    omega
  exact hinv.setMem (Memory.wf_writeBlock _ _ _ _ hend hinv.mem_wf)

theorem State.reg_loaded (cfg : Config) (image : List Byte) (r : Reg) : (State.loaded cfg image).reg r = 0 :=
  Vector.getElem_replicate ..

theorem State.readByte_loaded_image (cfg : Config) {image : List Byte} {k : Nat} {b : Byte} (h : image[k]? = some b) :
    (State.loaded cfg image).readByte (progBase + k) = b := by
  obtain ⟨hk, -⟩ := List.getElem?_eq_some_iff.1 h
  have hread := (State.initial cfg).getElem?_eq_readByte_writeBlock progBase image hk
  exact Option.some.inj (hread.symm.trans h)

theorem State.readByte_loaded_font {cfg : Config} (hwf : cfg.wf = true) (image : List Byte) {k : Nat} {b : Byte}
    (h : cfg.fontData[k]? = some b) : (State.loaded cfg image).readByte (cfg.fontBase + k) = b := by
  obtain ⟨hk, -⟩ := List.getElem?_eq_some_iff.1 h
  obtain ⟨-, -, hlen⟩ := (Config.wf_iff cfg).1 hwf
  have hread := fontStands_loaded hwf image k (hlen ▸ hk)
  exact Option.some.inj (hread.symm.trans h)

/-- Outside the image and the font area memory is 0 (R54). -/
theorem State.readByte_loaded_other (cfg : Config) {image : List Byte} {a : Nat}
    (himage : ¬ (progBase ≤ a ∧ a < progBase + image.length)) (hfont : ¬ (cfg.fontBase ≤ a ∧ a < cfg.fontBase + fontSize)) :
    (State.loaded cfg image).readByte a = 0 :=
  calc (State.loaded cfg image).readByte a
    _ = Memory.read cfg [] a := by
      change Memory.read cfg (Memory.writeBlock cfg progBase image []) a = _
      rw [Memory.read_writeBlock, dif_neg himage]
    _ = 0 := if_neg hfont

end Sys2Proof.Machine
end

section
/-! SUPPORT. DT over one step, and over a fair execution (spec/10_state.md R32; spec/60_exceptions.md R226, R256, R259). -/

namespace Sys2Proof.Machine

open Sys2Proof.Claims

/-! ## One step -/

/-- No instruction but FX15 changes DT (R32). -/
theorem exec_dt {i : Instr} {s t : State} (hi : changesDt i = false) (h : exec i s = .next t) : t.dt = s.dt := by
  obtain ⟨r, -, rfl⟩ | ⟨-, hw⟩ := exec_cases h
  · rfl
  · exact hw.dt hi

theorem changesDt_iff (i : Instr) : changesDt i = true ↔ ∃ x, i = .ldDtV x := by
  cases i <;> simp [changesDt]

/-- A step lets DT rise only as the FX15 it runs. -/
theorem step_dt_cases {s t : State} (h : step s = .next t) :
    t.dt.toNat ≤ s.dt.toNat ∨
    (MainLoopTurn s ∧ s.pc.toNat ≤ 4094 ∧ ∃ x, decode (wordAtPc s) = .instr (.ldDtV x) ∧ t.dt = s.reg x) := by
  cases step_cases h with
  | fetchFault hm hpc => exact .inl le_rfl
  | instr hm hpc i hd t he =>
    cases hi : changesDt i with
    | false => exact .inl (congrArg BitVec.toNat (exec_dt hi he)).le
    | true =>
      obtain ⟨x, rfl⟩ := (changesDt_iff i).1 hi
      cases he
      exact .inr ⟨hm, hpc, x, hd, rfl⟩
  | unmatched hm hpc w => exact .inl le_rfl
  | tick hm =>
    rw [toNat_dt_tick]
    exact .inl (Nat.sub_le _ _)
  | keys k hm => exact .inl le_rfl

/-! ## One move of an execution -/

/-- An FX15 stands where the next cycle fetches (R181). -/
def AtTimerWrite (s : State) : Prop := s.pc.toNat ≤ 4094 ∧ ∃ x, decode (wordAtPc s) = .instr (.ldDtV x)

theorem Moves.dt_le {m : Move} {s t : State} (h : Moves m s t) (hw : ¬ (m = .mainLoop ∧ AtTimerWrite s)) :
    t.dt.toNat ≤ s.dt.toNat := by
  obtain hle | ⟨⟨-, hm⟩, hpc, x, hd, -⟩ := step_dt_cases h
  · exact hle
  · exact absurd ⟨hm, hpc, x, hd⟩ hw

theorem Moves.dt_of_tick {s t : State} (h : Moves .tick s t) : t.dt.toNat = s.dt.toNat - 1 := by
  have htick : Host.Outcome.next (t.setSchedule []) = .next ((tick s).setSchedule []) := h.symm.trans (step_tick_cons s [])
  injection htick with htick
  have hdt : (t.setSchedule []).dt = ((tick s).setSchedule []).dt := by rw [htick]
  exact (congrArg BitVec.toNat hdt).trans (toNat_dt_tick s)

/-! ## Executions -/

/-- From `n` on the execution `σ` of the moves `μ` runs no FX15. -/
def NoTimerWriteFrom (σ : Nat → State) (μ : Nat → Move) (n : Nat) : Prop :=
  ∀ m, n ≤ m → ¬ (μ m = .mainLoop ∧ AtTimerWrite (σ m))

theorem NoTimerWriteFrom.mono {σ : Nat → State} {μ : Nat → Move} {n m : Nat} (h : NoTimerWriteFrom σ μ n) (hnm : n ≤ m) :
    NoTimerWriteFrom σ μ m :=
  fun k hk => h k (hnm.trans hk)

/-- While no FX15 runs DT does not rise. -/
theorem Execution.dt_le {σ : Nat → State} {μ : Nat → Move} (h : Execution σ μ) {n : Nat} (hw : NoTimerWriteFrom σ μ n)
    {k : Nat} (hk : n ≤ k) : (σ k).dt.toNat ≤ (σ n).dt.toNat := by
  induction k, hk using Nat.le_induction with
  | base => exact le_rfl
  | succ k hk ih => exact ((h k).dt_le (hw k hk)).trans ih

/-- Each of the ticks that fairness brings takes 1 off DT until it is 0 (R226, R259). -/
theorem Fair.dt_reaches_zero {σ : Nat → State} {μ : Nat → Move} (hf : Fair σ μ) (h : Execution σ μ) {n : Nat}
    (hw : NoTimerWriteFrom σ μ n) : ∃ m, n ≤ m ∧ (σ m).dt.toNat = 0 := by
  induction hd : (σ n).dt.toNat using Nat.strong_induction_on generalizing n with
  | _ d ih =>
    obtain rfl | hpos := Nat.eq_zero_or_pos d
    · exact ⟨n, le_rfl, hd⟩
    obtain ⟨k, hnk, hk⟩ := hf.ticker n
    have hticked : (σ (k + 1)).dt.toNat = (σ k).dt.toNat - 1 := Moves.dt_of_tick (hk ▸ h k)
    have hle : (σ k).dt.toNat ≤ (σ n).dt.toNat := h.dt_le hw hnk
    obtain ⟨m, hkm, hm⟩ := ih (σ (k + 1)).dt.toNat (by omega) (hw.mono (by omega)) rfl
    exact ⟨m, by omega, hm⟩

end Sys2Proof.Machine
end

section
/-! The statements of spec/70_reset_and_hazards.md, settled. -/

namespace Sys2Proof.Proofs

open Sys2Proof.Machine Sys2Proof.Claims

/-- Settles O22: the state of R44 meets the invariant, and an image that fits stays inside memory. -/
theorem bootMeetsTheInvariant : Obligations.BootMeetsTheInvariant := by
  intro hw image quirk s hwf hboot
  obtain ⟨bytes, q, hfits, rfl⟩ := exists_loaded_of_boot_started hboot
  have hcwf : (bootConfig hw q).wf = true := hwf
  exact State.loaded_inv hcwf hfits

/-- Settles O24: boot's cases in the order of R251, and the fields and bytes of the loaded state. -/
theorem bootLoadsTheImageOrRefusesIt : Obligations.BootLoadsTheImageOrRefusesIt := by
  refine ⟨rfl, fun hw hwf => ⟨fun image => rfl, fun q => rfl, fun bytes q => boot_of_tooLarge hw q, fun bytes q hfits => ?_⟩⟩
  have hcwf : (bootConfig hw q).wf = true := hwf
  refine ⟨State.loaded (bootConfig hw q) bytes, boot_of_fits hw q hfits, rfl, rfl, State.reg_loaded _ bytes, rfl, rfl, rfl,
    rfl, fun x y => ?_, rfl, ?_, ?_, ?_⟩
  · exact ne_true_of_eq_false (Framebuffer.pixel_clear x y)
  · exact fun k b => State.readByte_loaded_image _
  · exact fun k b => State.readByte_loaded_font hcwf bytes
  · exact fun a => State.readByte_loaded_other (bootConfig hw q)

/-- Settles O32: of all the steps only an FX15 raises DT, and without one fairness ticks it down to 0. -/
theorem delayTimerRisesOnlyByItsWrite : Obligations.DelayTimerRisesOnlyByItsWrite := by
  refine ⟨fun s t => step_dt_cases, fun σ μ h hf n hn => ?_⟩
  have hw : NoTimerWriteFrom σ μ n := hn
  obtain ⟨m, hnm, hzero⟩ := hf.dt_reaches_zero h hw
  refine ⟨m, hnm, fun k hmk => BitVec.eq_of_toNat_eq ?_⟩
  have hle : (σ k).dt.toNat ≤ (σ m).dt.toNat := h.dt_le (hw.mono hnm) hmk
  exact Nat.eq_zero_of_le_zero (hzero ▸ hle)

end Sys2Proof.Proofs
end
